-- ==== Sys2Proof/Word.lean ====
section
/-!
DEFINITION. The vocabulary the whole model shares: the 4-bit command code, the eight commands, the names of the
registers, and the values a caller holds on the input ports at one step (10_state.md R34, 30_encoding.md R65, R67).
-/
namespace Sys2Proof

/-- The command code on the port `op[3:0]` (30_encoding.md R65). -/
abbrev OpCode := BitVec 4

/-- The eight commands of 30_encoding.md R67; also what the register `OPR` holds (10_state.md R27). -/
inductive Command where
  | mul | divr | divnr | cvt | add | neg | asrp | shlp
deriving DecidableEq, Repr, Inhabited

/-- The names of the registers of 10_state.md R21 to R32, as the tables of R39 and R40 list them. -/
inductive Register where
  | opr | n | err | phase | cnt | a | q | m | negm | x | sa | sb | v | d | nb | r | qm
deriving DecidableEq, Repr, Inhabited

/-- The ports that carry a command (30_encoding.md R65): separate ports, not slices of one word. `width` is a
non-negative integer (91_not_in_source.md N20, 93_implementation_defined.md U12); `a` and `b` are mathematical
integers (00_scope.md R10). -/
structure CommandPorts where
  op    : OpCode
  wchk  : Bool
  width : Nat
  a     : Int
  b     : Int
deriving DecidableEq, Repr, Inhabited

/-- All input ports at one step (10_state.md R34). -/
structure Inputs where
  rst   : Bool
  start : Bool
  cmd   : CommandPorts
deriving DecidableEq, Repr, Inhabited

/-- Ports at rest: no reset, no start, every other port zero (30_encoding.md R68: "an all-zero command port does not
start a run"). -/
def Inputs.idle : Inputs := ⟨false, false, ⟨0, false, 0, 0, 0⟩⟩

end Sys2Proof
end

