-- ==== Sys2Proof/Syntax.lean ====
section
/-!
DEFINITION. The commands as syntax: one constructor for each row of spec/opcode_table.json, with the port fields
that the command reads (30_encoding.md R69). A field the command ignores is no argument of its constructor.
-/
namespace Sys2Proof

/-- The commands of 30_encoding.md R67 and R78. In each, `width` is the run width `n`, `a` and `b` the operand ports;
`wchk` is the width guard (assembly suffix `.G`). -/
inductive Instr where
  /-- `MUL a, b, n`: multiplicand `a`, multiplier `b` (42_booth_multiplier.md R115). -/
  | mul (wchk : Bool) (width : Nat) (a b : Int)
  /-- `DIVR a, b, n`: dividend `a`, divisor `b` (43_restoring_divider.md R130). -/
  | divr (wchk : Bool) (width : Nat) (a b : Int)
  /-- `DIVNR a, b`: dividend `a`, divisor `b`; `width` and `wchk` are ignored (44_non_restoring_divider.md R150). -/
  | divnr (a b : Int)
  /-- `CVT a, n` (40_two_complement_adder.md R95). -/
  | cvt (width : Nat) (a : Int)
  /-- `ADD a, b, n` (40_two_complement_adder.md R96). -/
  | add (width : Nat) (a b : Int)
  /-- `NEG a, n` (40_two_complement_adder.md R97). -/
  | neg (width : Nat) (a : Int)
  /-- `ASRP a, b, n`: `a` the image of `A`, `b` the image of `Q` (41_shift_pair_unit.md R108). -/
  | asrp (width : Nat) (a b : Int)
  /-- `SHLP a, b, n`: `a` the image of `A`, `b` the image of `Q` (41_shift_pair_unit.md R109). -/
  | shlp (width : Nat) (a b : Int)
deriving DecidableEq, Repr, Inhabited

end Sys2Proof
end

