-- ==== Sys2Proof/Decode.lean ====
section
/-!
DEFINITION. From the values on the command ports to a command, and back (30_encoding.md R65 to R69, R73). The decoder
selects on `op` alone, is total, and rejects the eight reserved codes by name. The spec's command is a tuple of ports,
so decoding starts from ports and not from bytes (20_memory.md R52: "There are no bytes").
-/
namespace Sys2Proof

/-- Why the ports name no command. -/
inductive DecodeError where
  /-- One of the eight reserved codes of 30_encoding.md R68. -/
  | reservedOp (op : OpCode)
deriving DecidableEq, Repr

/-- The code of each command (30_encoding.md R67). -/
def Command.code : Command → OpCode
  | .mul   => 0b0001
  | .divr  => 0b0010
  | .divnr => 0b0011
  | .cvt   => 0b1000
  | .add   => 0b1001
  | .neg   => 0b1010
  | .asrp  => 0b1100
  | .shlp  => 0b1101

/-- The rows of the command table, in its order (30_encoding.md R67; spec/opcode_table.json, whose mask is `1111` in
every row). -/
def commandTable : List Command := [.mul, .divr, .divnr, .cvt, .add, .neg, .asrp, .shlp]

/-- The command whose code is `op`, if any row has it (30_encoding.md R67, R68). -/
def commandOf (op : OpCode) : Option Command := commandTable.find? (fun c => c.code == op)

/-- The command that a constructor of `Instr` is an instance of. -/
def Instr.command : Instr → Command
  | .mul .. => .mul
  | .divr .. => .divr
  | .divnr .. => .divnr
  | .cvt .. => .cvt
  | .add .. => .add
  | .neg .. => .neg
  | .asrp .. => .asrp
  | .shlp .. => .shlp

/-- The fields of each command, read from the ports that 30_encoding.md R69 names for it. -/
def Command.fields (p : CommandPorts) : Command → Instr
  | .mul   => .mul p.wchk p.width p.a p.b
  | .divr  => .divr p.wchk p.width p.a p.b
  | .divnr => .divnr p.a p.b
  | .cvt   => .cvt p.width p.a
  | .add   => .add p.width p.a p.b
  | .neg   => .neg p.width p.a
  | .asrp  => .asrp p.width p.a p.b
  | .shlp  => .shlp p.width p.a p.b

/-- The decoder (30_encoding.md R73): every value of `op` is one of the eight commands or reserved. -/
def decode (p : CommandPorts) : Except DecodeError Instr :=
  match commandOf p.op with
  | some c => .ok (c.fields p)
  | none   => .error (.reservedOp p.op)

/-- The encoder: the ports that give a command, every ignored port zero (30_encoding.md R65, R67, R69). -/
def encode : Instr → CommandPorts
  | .mul g n a b  => ⟨0b0001, g, n, a, b⟩
  | .divr g n a b => ⟨0b0010, g, n, a, b⟩
  | .divnr a b    => ⟨0b0011, false, 0, a, b⟩
  | .cvt n a      => ⟨0b1000, false, n, a, 0⟩
  | .add n a b    => ⟨0b1001, false, n, a, b⟩
  | .neg n a      => ⟨0b1010, false, n, a, 0⟩
  | .asrp n a b   => ⟨0b1100, false, n, a, b⟩
  | .shlp n a b   => ⟨0b1101, false, n, a, b⟩

/-- The ports that a word of the opcode table stands for: its bits 3..0 are `op[3:0]` (the table's `encoding` and
mask); the table gives no bit to any other port, and those are zero (assumption 5). -/
def portsOfTableWord (w : Nat) : CommandPorts := ⟨BitVec.ofNat 4 w, false, 0, 0, 0⟩

/-- The command the decoder reads from a word numbered as spec/opcode_table.json numbers it; `nbits` is the row's
length, and no bit of the command lies above the four of `op` (assumption 5). -/
def decodeTableWord (_nbits w : Nat) : Option Instr :=
  match decode (portsOfTableWord w) with
  | .ok i    => some i
  | .error _ => none

end Sys2Proof
end

