-- ==== Sys2Proof/Config.lean ====
section
/-!
DEFINITION. What one instance of the hardware fixes (00_scope.md R15: `WMAX`, `DIVR_A_INIT`), and the one free value
of the model: what a register holds when the spec says that it holds no value (93_implementation_defined.md U5).
-/
namespace Sys2Proof

/-- What the restoring divider loads into `A` (00_scope.md R14, 43_restoring_divider.md R130). -/
inductive DivrAInit where
  | zero
  | signExtend
deriving DecidableEq, Repr, Inhabited

/-- The parameters the spec says a model takes as arguments (00_scope.md R9, R14; 92_eei_decisions.md "A model takes
`WMAX` and `DIVR_A_INIT` as arguments"). `XW` (R10) is not here: "the model uses integers and has no `XW`". -/
structure Config where
  wmax      : Nat
  divrAInit : DivrAInit
deriving DecidableEq, Repr, Inhabited

/-- The parameters of the instance that `State.reset` stands for. `divrAInit` is the spec's default (R14). `wmax` is
open in the spec: 16, the value its error vectors use, is a DESIGN CHOICE (assumption 1); unsafe for a statement that
rests on it, and none does: every step reads the field `cfg` of the state and leaves it alone. -/
def Config.default : Config := ⟨16, .zero⟩

/-- FREE VALUE. What the registers that hold no value contain, drawn afresh at each step that discards them
(10_state.md R38; 93_implementation_defined.md U5 "any value, never read by any rule"; assumption 3). It has no body:
nothing in Lean can say which value it is. -/
opaque Config.free (α : Type) [Inhabited α] : Nat → α

end Sys2Proof
end

