-- ==== Sys2Proof/Machine/State.lean ====
section
/-!
DEFINITION. The state of one instance as plain data (10_state.md R20 to R32), the reasons a step could stop, and the
state right after reset (R39). The hardware has no memory (20_memory.md R50), so State holds none.
-/
namespace Sys2Proof.Machine

/-- Why a step would stop the machine: never. The step function is total (10_state.md R41) and every error the spec
names is a next state (60_exceptions.md R176), so this type has no constructor; that is safe, as nothing is lost. -/
inductive Fault
deriving DecidableEq, Repr

/-- Why an instruction has no meaning. -/
inductive Refusal where
  /-- Raised by an arm of `exec` for a command that has no meaning yet; no arm raises it. Safe: the machine stops. -/
  | notModelled (mnemonic : String)
deriving DecidableEq, Repr

/-- The sequencing state `PHASE` (10_state.md R30). -/
inductive Phase where
  | idle | run | done | err
deriving DecidableEq, Repr, Inhabited

/-- The values of the error register `ERR` (10_state.md R32, 60_exceptions.md R170). -/
inductive ErrorCode where
  | none | divisionByZero | insufficientWidth | illegalCommand
deriving DecidableEq, Repr, Inhabited

/-- The latched run width `N` and the four registers that have it as their width (10_state.md R20 to R24, R26). One
width for all four is 20_memory.md R54's "all arithmetic operations between two registers require equal width". -/
structure Datapath where
  /-- `N`, the latched run width (R26). -/
  n    : Nat
  /-- `A`, the accumulator (R21). -/
  a    : BitVec n
  /-- `Q`, the operand/quotient register (R22). -/
  q    : BitVec n
  /-- `M`, the multiplicand or divisor (R23). -/
  m    : BitVec n
  /-- `NEGM`, `negateBits(M)` (R24). -/
  negm : BitVec n
deriving DecidableEq, Repr, Inhabited

/-- The registers that can hold no value (10_state.md R38): all but `PHASE` and `ERR`. -/
structure Regs where
  /-- `OPR`, the latched command (R27). -/
  opr : Command
  /-- `CNT`, the cycle counter (R31). -/
  cnt : Nat
  /-- `N`, `A`, `Q`, `M`, `NEGM`. -/
  dp  : Datapath
  /-- `X`, the ExtraBit (R25). -/
  x   : Bool
  /-- `SA`: the operand `a` was negative (R28). -/
  sa  : Bool
  /-- `SB`: the operand `b` was negative (R28). -/
  sb  : Bool
  /-- `V`, the dividend magnitude (R29). -/
  v   : Nat
  /-- `D`, the divisor magnitude (R29). -/
  d   : Nat
  /-- `NB`, the number of cycles of `DIVNR` (R29, R152). -/
  nb  : Nat
  /-- `R`, the running remainder, which never wraps (R29, R12). -/
  r   : Int
  /-- `QM`, the quotient magnitude (R29). -/
  qm  : Nat
deriving DecidableEq, Repr, Inhabited

/-- The state of one instance. `cfg`, `inputs` and `fresh` are the model's own fields: the parameters and the port
values that the spec makes arguments of its step function (10_state.md, head; R43), and the index of the next free
value (assumptions 2, 3, 6). -/
structure State extends Regs where
  /-- `PHASE` (R30). -/
  phase  : Phase
  /-- `ERR` (R32). -/
  err    : ErrorCode
  /-- `WMAX` and `DIVR_A_INIT`, fixed for the instance (assumption 2). -/
  cfg    : Config
  /-- What the caller holds on the input ports, one entry for each step to come (assumption 6). -/
  inputs : List Inputs
  /-- The index of the next free value (assumption 3). -/
  fresh  : Nat
deriving DecidableEq, Repr, Inhabited

/-- What the registers that hold no value after reset contain in `State.reset`: the spec gives none (R39), these are
the model's named values (assumption 4: DESIGN CHOICE, unsafe for a statement that rests on them; none does). -/
def Regs.reset : Regs :=
  { opr := .mul, cnt := 0, dp := ⟨1, 0, 0, 0, 0⟩, x := false, sa := false, sb := false
    v := 0, d := 1, nb := 1, r := 0, qm := 0 }

/-- The state after reset of an instance with the parameters `c` to whose ports the caller then gives `is`
(10_state.md R39, 70_reset_and_hazards.md R197). -/
def State.resetWith (c : Config) (is : List Inputs) : State :=
  { Regs.reset with phase := .idle, err := .none, cfg := c, inputs := is, fresh := 0 }

/-- The machine right after reset, nothing offered on its ports (10_state.md R39). -/
def State.reset : State := State.resetWith Config.default []

end Sys2Proof.Machine
end

