-- ==== Sys2Proof/Machine/Operands.lean ====
section
/-!
DEFINITION. The functions that make registers from integers, integers from registers, and registers from registers:
files 40 and 41 of the spec, and the magnitudes of the non-restoring divider. `w` is any width; where the spec asks
for `w >= 1` the start step has checked it (60_exceptions.md R174).
-/
namespace Sys2Proof.Machine

/-- `decimalToBits(v, w)`: the register of width `w` with `uval = v mod 2^w` (40_two_complement_adder.md R90). -/
def decimalToBits (v : Int) (w : Nat) : BitVec w := BitVec.ofInt w v

/-- `uval(v)`, the unsigned reading (00_scope.md R16). -/
def uval {w : Nat} (v : BitVec w) : Nat := v.toNat

/-- `bitsToDecimal(r) = sval(r)`, the two's-complement reading (40_two_complement_adder.md R91, 00_scope.md R16). -/
def bitsToDecimal {w : Nat} (v : BitVec w) : Int := v.toInt

/-- `addBits(x, y)`: the sum modulo `2^w`, the carry out of the MSB discarded (40_two_complement_adder.md R92).
That it is the rule's ripple is the statement `Obligations.AddBitsIsRippleCarry`. -/
def addBits {w : Nat} (x y : BitVec w) : BitVec w := x + y

/-- `negateBits(x) = addBits(~x, decimalToBits(1, w))` (40_two_complement_adder.md R93). -/
def negateBits {w : Nat} (x : BitVec w) : BitVec w := addBits (~~~x) (decimalToBits 1 w)

/-- `fits(v, w)`: `w >= 1` and `-2^(w-1) <= v <= 2^(w-1)-1` (40_two_complement_adder.md R98). -/
def fits (v : Int) (w : Nat) : Bool :=
  decide (1 ≤ w) && decide (-(2 : Int) ^ (w - 1) ≤ v) && decide (v ≤ (2 : Int) ^ (w - 1) - 1)

/-- The pair `{A, Q}`, `A` in the high half (20_memory.md R53). -/
def pair {w : Nat} (a q : BitVec w) : BitVec (w + w) := a ++ q

/-- What `asrPair` leaves in `A`: `{A[w-1], A[w-1:1]}` (41_shift_pair_unit.md R105). -/
def asrPairA {w : Nat} (a : BitVec w) : BitVec w := a.sshiftRight 1

/-- What `asrPair` leaves in `Q`: `{A[0], Q[w-1:1]}`, which is bits `w` to `1` of `{A, Q}` (41_shift_pair_unit.md R105). -/
def asrPairQ {w : Nat} (a q : BitVec w) : BitVec w := (pair a q).extractLsb' 1 w

/-- What `asrPair` leaves in `X`: the old `Q[0]` (41_shift_pair_unit.md R105). The old `X` is not read. -/
def asrPairX {w : Nat} (q : BitVec w) : Bool := q.getLsbD 0

/-- What `shlPair` leaves in `A`: `{A[w-2:0], Q[w-1]}`, which is bits `2w-2` to `w-1` of `{A, Q}`
(41_shift_pair_unit.md R106). -/
def shlPairA {w : Nat} (a q : BitVec w) : BitVec w := (pair a q).extractLsb' (w - 1) w

/-- What `shlPair` leaves in `Q`: `{Q[w-2:0], 0}` (41_shift_pair_unit.md R106). -/
def shlPairQ {w : Nat} (q : BitVec w) : BitVec w := q <<< 1

/-- `{q[w-1:1], b}`: the register with its bit 0 replaced (43_restoring_divider.md R131 step 4). -/
def withLsb {w : Nat} (q : BitVec w) (b : Bool) : BitVec w :=
  if b then q ||| BitVec.ofNat w 1 else q &&& ~~~ BitVec.ofNat w 1

/-- `bitlen(m)`: the number of binary digits of `m`, 0 for 0 (00_scope.md R17). -/
def bitlen (m : Nat) : Nat := if m = 0 then 0 else Nat.log2 m + 1

/-- `nbits = max(1, bitlen(V))` (44_non_restoring_divider.md R152). -/
def nbits (v : Nat) : Nat := max 1 (bitlen v)

/-- `floor(V / 2^i) mod 2`, bit `i` of the dividend magnitude (44_non_restoring_divider.md R153). -/
def dividendBit (v i : Nat) : Nat := v / 2 ^ i % 2

/-- The sign that `SA` and `SB` record: the integer as supplied is negative (10_state.md R28, D13). -/
def isNegative (v : Int) : Bool := decide (v < 0)

/-- The magnitude of an operand of `DIVNR` (30_encoding.md R71). -/
def magnitude (v : Int) : Nat := v.natAbs

end Sys2Proof.Machine
end

