-- ==== Sys2Proof/Machine/Flags.lean ====
section
/-!
DEFINITION. The one condition flag `X` as the Booth decision reads it (10_state.md R25, 42_booth_multiplier.md R117),
the sign tests of the two dividers, and the status outputs (10_state.md R36). There is no carry, overflow, zero or
negative flag (R25).
-/
namespace Sys2Proof.Machine

/-- What a `MUL` cycle does to `A` before the shift (42_booth_multiplier.md R117). -/
inductive BoothAction where
  | none | add | subtract
deriving DecidableEq, Repr

/-- The decision table of a `MUL` cycle over `(Q[0], X)` (42_booth_multiplier.md R117). -/
def boothAction (q0 x : Bool) : BoothAction :=
  match q0, x with
  | false, false => .none
  | false, true  => .add
  | true,  false => .subtract
  | true,  true  => .none

/-- Two registers have the same sign bit (43_restoring_divider.md R131 steps 3 and 4). -/
def sameSign {w : Nat} (x y : BitVec w) : Bool := x.msb == y.msb

/-- The code an error has in `ERR` and on the output `err` (60_exceptions.md R170, 10_state.md R36). -/
def ErrorCode.code : ErrorCode → BitVec 2
  | .none              => 0
  | .divisionByZero    => 1
  | .insufficientWidth => 2
  | .illegalCommand    => 3

/-- The status output `busy` (10_state.md R36). -/
def busy (s : State) : Bool := s.phase == .run

/-- The status output `done` (10_state.md R36). -/
def done (s : State) : Bool := s.phase == .done

/-- The status output `err` (10_state.md R36). -/
def errOut (s : State) : BitVec 2 := s.err.code

end Sys2Proof.Machine
end

