-- ==== Sys2Proof/WellFormed.lean ====
section
/-!
DEFINITION. Well-formed commands: those whose run width an instance with the given parameters accepts. An ill-formed
command is not refused by the machine; its start step raises `IllegalCommand` (60_exceptions.md R174).
-/
namespace Sys2Proof

/-- A run width an instance accepts: `1 <= width <= WMAX` (00_scope.md R9). -/
def widthOk (c : Config) (n : Nat) : Bool := decide (1 ≤ n) && decide (n ≤ c.wmax)

/-- The run width of a command that reads the port `width` lies in `1..WMAX`; `DIVNR` reads no width and is always
well formed (60_exceptions.md R174, 30_encoding.md R69). -/
def Instr.WellFormed (c : Config) : Instr → Bool
  | .mul _ n _ _ | .divr _ n _ _ | .cvt n _ | .add n _ _ | .neg n _ | .asrp n _ _ | .shlp n _ _ => widthOk c n
  | .divnr _ _ => true

end Sys2Proof
end

