-- ==== Sys2Proof/Machine/Ops.lean ====
section
/-!
DEFINITION. The operations every command shares: sampling the ports, discarding registers, the entry check of the
start step and what it does on an error (the hardware's only kind of exception, 60_exceptions.md), accepting a
command, and the reset step.
-/
namespace Sys2Proof.Machine

/-- The registers that the accepted start step of each command writes (table of 10_state.md R40); after it exactly
these hold values (R38). -/
def writes : Command → List Register
  | .mul   => [.opr, .n, .err, .phase, .cnt, .a, .q, .m, .negm, .x]
  | .divr  => [.opr, .n, .err, .phase, .cnt, .a, .q, .m, .negm, .x, .sa, .sb]
  | .divnr => [.opr, .err, .phase, .cnt, .v, .d, .nb, .r, .qm, .sa, .sb]
  | .cvt | .add | .neg | .asrp | .shlp => [.opr, .n, .err, .phase, .a, .q, .x]

/-- The registers that hold a value (10_state.md R38, R39, R40; 60_exceptions.md R176): after reset `PHASE`, `ERR`,
`CNT`; after a rejected start `PHASE`, `ERR`; during and after a run those its start step wrote. -/
def State.holds (s : State) (reg : Register) : Bool :=
  match s.phase with
  | .idle        => [Register.phase, .err, .cnt].contains reg
  | .err         => [Register.phase, .err].contains reg
  | .run | .done => (writes s.opr).contains reg

/-- The values on the input ports at this step (10_state.md R34); a caller that has nothing more to offer holds its
ports at rest (assumption 6). -/
def State.port (s : State) : Inputs := s.inputs.headD Inputs.idle

/-- The state with this step's port values taken, the next ones in front (assumption 6). -/
def State.sample (s : State) : State := { s with inputs := s.inputs.tail }

/-- Every register but `PHASE` and `ERR` loses its value: what they contain from then on is a free value
(10_state.md R37, R38; assumption 3). -/
def State.discard (s : State) : State :=
  { s with toRegs := Config.free Regs s.fresh, fresh := s.fresh + 1 }

/-- TAKING AN ERROR, the one exception entry of this hardware (60_exceptions.md R176): `ERR <- e`, `PHASE <- ERR`,
every other register holds no value; nothing is saved and control goes nowhere. It is left by the next accepted start
or by reset (R179). -/
def State.raise (e : ErrorCode) (s : State) : State :=
  { s.discard with phase := .err, err := e }

/-- What every accepted start step without error does first (30_encoding.md R76): the registers of the run before are
discarded, `ERR <- 0`, `OPR <-` the command. The command's load writes the rest of its row of R40. -/
def State.accept (c : Command) (s : State) : State :=
  { s.discard with err := .none, opr := c }

/-- The end of the start step of a primitive command, which completes in it (40_two_complement_adder.md R95 to R97,
41_shift_pair_unit.md R108, R109): `N`, `A`, `Q`, `X` and `PHASE <- DONE`. `M` and `NEGM` are not in its row of
10_state.md R40 and hold no value: free values of the new width. -/
def State.complete (c : Command) (n : Nat) (a q : BitVec n) (x : Bool) (s : State) : State :=
  let u := Config.free (BitVec n × BitVec n) s.fresh
  { s.accept c with phase := .done, dp := ⟨n, a, q, u.1, u.2⟩, x := x }

/-- The reset step (70_reset_and_hazards.md R196): `PHASE <- IDLE`, `ERR <- 0`, `CNT <- 0`, every other register holds
no value. -/
def State.resetStep (s : State) : State :=
  { s.discard with phase := .idle, err := .none, cnt := 0 }

/-- The run width is outside `1..WMAX`; never for `DIVNR`, which reads no width (60_exceptions.md R174). -/
def widthIllegal (c : Config) : Instr → Bool
  | .mul _ n _ _ | .divr _ n _ _ | .cvt n _ | .add n _ _ | .neg n _ | .asrp n _ _ | .shlp n _ _ =>
      decide (n = 0) || decide (c.wmax < n)
  | .divnr _ _ => false

/-- The divisor, as the integer supplied, is zero (60_exceptions.md R171). -/
def divisorZero : Instr → Bool
  | .divr _ _ _ b | .divnr _ b => decide (b = 0)
  | .mul .. | .cvt .. | .add .. | .neg .. | .asrp .. | .shlp .. => false

/-- The width guard is on and an operand does not fit with its safety bit (60_exceptions.md R172). -/
def guardFails : Instr → Bool
  | .mul g n a b | .divr g n a b => g && !(fits a (n - 1) && fits b (n - 1))
  | .divnr .. | .cvt .. | .add .. | .neg .. | .asrp .. | .shlp .. => false

/-- The entry check of a command whose `op` is defined (60_exceptions.md R175): the first test that fires decides. A
reserved `op` is caught by the decoder before it (R173). -/
def entryCheck (c : Config) (i : Instr) : ErrorCode :=
  if widthIllegal c i then .illegalCommand
  else if divisorZero i then .divisionByZero
  else if guardFails i then .insufficientWidth
  else .none

/-- The start step of a command (30_encoding.md R76): reject it with the error of its entry check, or do its load. -/
def startStep (i : Instr) (load : State → State) (s : State) : Host.Outcome State Fault Refusal :=
  match entryCheck s.cfg i with
  | .none              => .next (load s)
  | .divisionByZero    => .next (s.raise .divisionByZero)
  | .insufficientWidth => .next (s.raise .insufficientWidth)
  | .illegalCommand    => .next (s.raise .illegalCommand)

end Sys2Proof.Machine
end

