-- ==== Sys2Proof/Machine/Adder.lean ====
section
/-!
DEFINITION. two_complement_adder: the commands `CVT`, `ADD`, `NEG` (40_two_complement_adder.md R95 to R97). Each
completes in its start step.
-/
namespace Sys2Proof.Machine

/-- The load of `CVT a, n` (40_two_complement_adder.md R95). -/
def loadCvt (n : Nat) (a : Int) (s : State) : State :=
  s.complete .cvt n 0 (decimalToBits a n) false

/-- `CVT a, n` (40_two_complement_adder.md R95). -/
def execCvt (n : Nat) (a : Int) (s : State) : Host.Outcome State Fault Refusal :=
  startStep (.cvt n a) (loadCvt n a) s

/-- The load of `ADD a, b, n` (40_two_complement_adder.md R96). -/
def loadAdd (n : Nat) (a b : Int) (s : State) : State :=
  s.complete .add n 0 (addBits (decimalToBits a n) (decimalToBits b n)) false

/-- `ADD a, b, n` (40_two_complement_adder.md R96). -/
def execAdd (n : Nat) (a b : Int) (s : State) : Host.Outcome State Fault Refusal :=
  startStep (.add n a b) (loadAdd n a b) s

/-- The load of `NEG a, n` (40_two_complement_adder.md R97). -/
def loadNeg (n : Nat) (a : Int) (s : State) : State :=
  s.complete .neg n 0 (negateBits (decimalToBits a n)) false

/-- `NEG a, n` (40_two_complement_adder.md R97). -/
def execNeg (n : Nat) (a : Int) (s : State) : Host.Outcome State Fault Refusal :=
  startStep (.neg n a) (loadNeg n a) s

end Sys2Proof.Machine
end

