-- ==== Sys2Proof/Machine/Booth.lean ====
section
/-!
DEFINITION. booth_multiplier: the command `MUL` (42_booth_multiplier.md R115 to R118): its start step, its cycle step
and its finish step.
-/
namespace Sys2Proof.Machine

/-- The load of `MUL a, b, n` (42_booth_multiplier.md R115). The placement of the operands and the start values of
`A` and `X` are the spec's "[from general knowledge, not in source]" (assumption 10). -/
def loadMul (n : Nat) (a b : Int) (s : State) : State :=
  let m := decimalToBits a n
  { s.accept .mul with
    phase := .run, cnt := 0, dp := ⟨n, 0, decimalToBits b n, m, negateBits m⟩, x := false }

/-- `MUL a, b, n` and `MUL.G a, b, n`: the start step (42_booth_multiplier.md R115, R123). -/
def execMul (wchk : Bool) (n : Nat) (a b : Int) (s : State) : Host.Outcome State Fault Refusal :=
  startStep (.mul wchk n a b) (loadMul n a b) s

/-- `A1` of a `MUL` cycle: `A` after the add or subtract that the table selects (42_booth_multiplier.md R116, R117). -/
def boothAdd {n : Nat} (a m negm : BitVec n) (act : BoothAction) : BitVec n :=
  match act with
  | .none     => a
  | .add      => addBits a m
  | .subtract => addBits a negm

/-- The datapath after a `MUL` cycle: the add or subtract first, then the pair shifted right
(42_booth_multiplier.md R116). -/
def mulDatapath (dp : Datapath) (x : Bool) : Datapath :=
  let a1 := boothAdd dp.a dp.m dp.negm (boothAction (dp.q.getLsbD 0) x)
  { dp with a := asrPairA a1, q := asrPairQ a1 dp.q }

/-- The cycle step of `MUL` (42_booth_multiplier.md R116). -/
def mulCycle (s : State) : State :=
  { s with dp := mulDatapath s.dp s.x, x := asrPairX s.dp.q, cnt := s.cnt + 1 }

/-- The finish step of `MUL` (42_booth_multiplier.md R118): only `PHASE` changes. -/
def mulFinish (s : State) : State := { s with phase := .done }

end Sys2Proof.Machine
end

