-- ==== Sys2Proof/Machine/NonRestoring.lean ====
section
/-!
DEFINITION. non_restoring_divider: the command `DIVNR` (44_non_restoring_divider.md R150 to R154): its start step, its
cycle step and its finish step, in exact integer arithmetic.
-/
namespace Sys2Proof.Machine

/-- The load of `DIVNR a, b` (44_non_restoring_divider.md R151, R152). `R = 0` and `QM = 0` at the start are the
spec's "[from general knowledge, not in source]" (assumption 11). -/
def loadDivnr (a b : Int) (s : State) : State :=
  { s.accept .divnr with
    phase := .run, cnt := 0, sa := isNegative a, sb := isNegative b
    v := magnitude a, d := magnitude b, nb := nbits (magnitude a), r := 0, qm := 0 }

/-- `DIVNR a, b`: the start step (44_non_restoring_divider.md R150, R151, R156). -/
def execDivnr (a b : Int) (s : State) : Host.Outcome State Fault Refusal :=
  startStep (.divnr a b) (loadDivnr a b) s

/-- `R2` of a `DIVNR` cycle that brings in `bit`: shift left, then subtract or add the divisor by the sign of the
shifted remainder (44_non_restoring_divider.md R153 steps 1 and 2). -/
def divnrRemainder (r : Int) (d bit : Nat) : Int :=
  let r1 := 2 * r + (bit : Int)
  if 0 ≤ r1 then r1 - (d : Int) else r1 + (d : Int)

/-- The quotient bit of a `DIVNR` cycle (44_non_restoring_divider.md R153 step 3). -/
def quotientBit (r2 : Int) : Nat := if 0 ≤ r2 then 1 else 0

/-- The cycle step of `DIVNR` (44_non_restoring_divider.md R153). -/
def divnrCycle (s : State) : State :=
  let r2 := divnrRemainder s.r s.d (dividendBit s.v (s.nb - 1 - s.cnt))
  { s with r := r2, qm := 2 * s.qm + quotientBit r2, cnt := s.cnt + 1 }

/-- The single final correction of the remainder (44_non_restoring_divider.md R154). -/
def divnrCorrect (r : Int) (d : Nat) : Int := if r < 0 then r + (d : Int) else r

/-- The finish step of `DIVNR` (44_non_restoring_divider.md R154). -/
def divnrFinish (s : State) : State := { s with r := divnrCorrect s.r s.d, phase := .done }

end Sys2Proof.Machine
end

