-- ==== Sys2Proof/Machine/Restoring.lean ====
section
/-!
DEFINITION. restoring_divider: the command `DIVR` (43_restoring_divider.md R130 to R132): its start step, its cycle
step and its finish step.
-/
namespace Sys2Proof.Machine

/-- What the load puts in `A`, by `DIVR_A_INIT` (43_restoring_divider.md R130, 00_scope.md R14). -/
def divrAccumulator (init : DivrAInit) {n : Nat} (q : BitVec n) : BitVec n :=
  match init with
  | .zero       => 0
  | .signExtend => if q.msb then BitVec.allOnes n else 0

/-- The load of `DIVR a, b, n` (43_restoring_divider.md R130). -/
def loadDivr (n : Nat) (a b : Int) (s : State) : State :=
  let q := decimalToBits a n
  let m := decimalToBits b n
  { s.accept .divr with
    phase := .run, cnt := 0, dp := ⟨n, divrAccumulator s.cfg.divrAInit q, q, m, negateBits m⟩
    x := false, sa := isNegative a, sb := isNegative b }

/-- `DIVR a, b, n` and `DIVR.G a, b, n`: the start step (43_restoring_divider.md R130, R134). -/
def execDivr (wchk : Bool) (n : Nat) (a b : Int) (s : State) : Host.Outcome State Fault Refusal :=
  startStep (.divr wchk n a b) (loadDivr n a b) s

/-- `A2` of a `DIVR` cycle: the trial, subtract when the shifted `A` and `M` have the same sign bit, else add
(43_restoring_divider.md R131 step 3). -/
def divrTrial {n : Nat} (a1 m negm : BitVec n) : BitVec n :=
  if sameSign a1 m then addBits a1 negm else addBits a1 m

/-- The datapath after a `DIVR` cycle: shift left, save, try, then keep or restore (43_restoring_divider.md R131). -/
def divrDatapath (dp : Datapath) : Datapath :=
  let a1 := shlPairA dp.a dp.q
  let q1 := shlPairQ dp.q
  let a2 := divrTrial a1 dp.m dp.negm
  if sameSign a2 a1 then { dp with a := a2, q := withLsb q1 true } else { dp with a := a1, q := withLsb q1 false }

/-- The cycle step of `DIVR` (43_restoring_divider.md R131). -/
def divrCycle (s : State) : State := { s with dp := divrDatapath s.dp, cnt := s.cnt + 1 }

/-- The datapath after the finish step of `DIVR`: the quotient negated when the operands' signs differ
(43_restoring_divider.md R132). -/
def divrCorrect (dp : Datapath) (sa sb : Bool) : Datapath :=
  if sa != sb then { dp with q := negateBits dp.q } else dp

/-- The finish step of `DIVR` (43_restoring_divider.md R132). -/
def divrFinish (s : State) : State := { s with dp := divrCorrect s.dp s.sa s.sb, phase := .done }

end Sys2Proof.Machine
end

