-- ==== Sys2Proof/Machine/ShiftPair.lean ====
section
/-!
DEFINITION. shift_pair_unit: the commands `ASRP` and `SHLP` (41_shift_pair_unit.md R108, R109). Each completes in its
start step.
-/
namespace Sys2Proof.Machine

/-- The load of `ASRP a, b, n` (41_shift_pair_unit.md R108): `(A, Q, X) <- asrPair` of the two images. -/
def loadAsrp (n : Nat) (a b : Int) (s : State) : State :=
  let ra := decimalToBits a n
  let rq := decimalToBits b n
  s.complete .asrp n (asrPairA ra) (asrPairQ ra rq) (asrPairX rq)

/-- `ASRP a, b, n` (41_shift_pair_unit.md R108). -/
def execAsrp (n : Nat) (a b : Int) (s : State) : Host.Outcome State Fault Refusal :=
  startStep (.asrp n a b) (loadAsrp n a b) s

/-- The load of `SHLP a, b, n` (41_shift_pair_unit.md R109): `(A, Q) <- shlPair` of the two images, `X <- 0`. -/
def loadShlp (n : Nat) (a b : Int) (s : State) : State :=
  let ra := decimalToBits a n
  let rq := decimalToBits b n
  s.complete .shlp n (shlPairA ra rq) (shlPairQ rq) false

/-- `SHLP a, b, n` (41_shift_pair_unit.md R109). -/
def execShlp (n : Nat) (a b : Int) (s : State) : Host.Outcome State Fault Refusal :=
  startStep (.shlp n a b) (loadShlp n a b) s

end Sys2Proof.Machine
end

