-- ==== Sys2Proof/Machine/Dispatch.lean ====
section
/-!
DEFINITION. What an accepted start step of each command does (30_encoding.md R76), one arm for each command. The cycle
and finish steps that follow the start of `MUL`, `DIVR` and `DIVNR` are in Machine/Sequencer.lean.
-/
namespace Sys2Proof.Machine

def exec (i : Instr) (s : State) : Host.Outcome State Fault Refusal :=
  match i with
  | .mul wchk width a b => Sys2Proof.Machine.execMul wchk width a b s
  | .divr wchk width a b => Sys2Proof.Machine.execDivr wchk width a b s
  | .divnr a b => Sys2Proof.Machine.execDivnr a b s
  | .cvt width a => Sys2Proof.Machine.execCvt width a s
  | .add width a b => Sys2Proof.Machine.execAdd width a b s
  | .neg width a => Sys2Proof.Machine.execNeg width a s
  | .asrp width a b => Sys2Proof.Machine.execAsrp width a b s
  | .shlp width a b => Sys2Proof.Machine.execShlp width a b s

end Sys2Proof.Machine
end

