-- ==== Sys2Proof/Machine/Sequencer.lean ====
section
/-!
DEFINITION. Which step applies and what it does (10_state.md R41): reset, start, cycle, finish or idle step; and where
a test places the command of the next step.
-/
namespace Sys2Proof.Machine

/-- `LIM`, the number of cycle steps of the run in progress (10_state.md R31); a primitive command has none. -/
def limit (s : State) : Option Nat :=
  match s.opr with
  | .mul | .divr => some s.dp.n
  | .divnr       => some s.nb
  | .cvt | .add | .neg | .asrp | .shlp => none

/-- The cycle step of the latched command (42_booth_multiplier.md R116, 43_restoring_divider.md R131,
44_non_restoring_divider.md R153). -/
def cycleStep (s : State) : State :=
  match s.opr with
  | .mul   => mulCycle s
  | .divr  => divrCycle s
  | .divnr => divnrCycle s
  | .cvt | .add | .neg | .asrp | .shlp => s

/-- The finish step of the latched command (42_booth_multiplier.md R118, 43_restoring_divider.md R132,
44_non_restoring_divider.md R154). -/
def finishStep (s : State) : State :=
  match s.opr with
  | .mul   => mulFinish s
  | .divr  => divrFinish s
  | .divnr => divnrFinish s
  | .cvt | .add | .neg | .asrp | .shlp => s

/-- A step in `RUN` (10_state.md R41): a cycle step while `CNT < LIM`, the finish step when `CNT = LIM`; in the states
no run reaches, where neither applies, the rule's `else`, an idle step (assumption 13). -/
def runStep (s : State) : State :=
  match limit s with
  | some lim => if s.cnt < lim then cycleStep s else if s.cnt = lim then finishStep s else s
  | none     => s

/-- An accepted start (30_encoding.md R76): the decoded command's start step, or `IllegalCommand` for a reserved code
(R68, 60_exceptions.md R173). -/
def acceptStart (p : CommandPorts) (s : State) : Host.Outcome State Fault Refusal :=
  match decode p with
  | .ok i    => exec i s
  | .error _ => .next (s.raise .illegalCommand)

/-- One step under the port values `p` (10_state.md R41): `rst` before everything; a start is accepted outside `RUN`
and ignored inside it (70_reset_and_hazards.md R200); otherwise the run goes on, or nothing changes. -/
def stepWith (p : Inputs) (s : State) : Host.Outcome State Fault Refusal :=
  if p.rst then .next s.resetStep
  else if s.phase = .run then .next (runStep s)
  else if p.start then acceptStart p.cmd s
  else .next s

/-- One step of the machine: the ports of this step are taken from the caller's sequence (10_state.md R43), then R41. -/
def advance (s : State) : Host.Outcome State Fault Refusal := stepWith s.port s.sample

/-- The state whose next step accepts a start of the command on the ports `p`: that start replaces what the caller
offered for that step, and a run in progress, in which the start would be ignored, is taken to be over (assumption 7). -/
def offer (p : CommandPorts) (s : State) : State :=
  { s with
    inputs := ⟨false, true, p⟩ :: s.inputs.tail
    phase  := if s.phase = .run then .idle else s.phase }

end Sys2Proof.Machine
end

