-- ==== Sys2Proof/Machine/Step.lean ====
section
/-!
DEFINITION. The step function of the machine (10_state.md R41), and the placing of a table word where the next step
reads its command.
-/
namespace Sys2Proof.Machine

/-- One step (10_state.md R41). -/
def step (s : State) : Host.Outcome State Fault Refusal := advance s

/-- `s` with the command of a word of spec/opcode_table.json on the ports of the next step (assumptions 5 and 7). -/
def State.withFetchWord (s : State) (_nbits w : Nat) : State := offer (portsOfTableWord w) s

end Sys2Proof.Machine
end

