-- ==== Sys2Proof/Machine/Outputs.lean ====
section
/-!
DEFINITION. The data outputs as functions of the state (10_state.md R35), and the view of the registers that hold a
value, in the form of the state tables of 95_test_vectors.md. `none` is the spec's "unspecified" (`?`) or "holds no
value" (`-`): any value may be there, and nothing is said about it (assumption 8).
-/
namespace Sys2Proof.Machine

/-- `rhi`, `rlo`, `rx` are specified: `PHASE` is `RUN` or `DONE` and `OPR` is not `DIVNR` (10_state.md R35, U3, U4). -/
def bitsShown (s : State) : Bool := (s.phase == .run || s.phase == .done) && s.opr != .divnr

/-- The output `rhi`, at the run width (10_state.md R35). -/
def rhi (s : State) : Option (BitVec s.dp.n) := if bitsShown s then some s.dp.a else none

/-- The output `rlo`, at the run width (10_state.md R35). -/
def rlo (s : State) : Option (BitVec s.dp.n) := if bitsShown s then some s.dp.q else none

/-- The output `rx` (10_state.md R35). -/
def rx (s : State) : Option Bool := if bitsShown s then some s.x else none

/-- The quotient of `DIVNR` with the tracked sign (44_non_restoring_divider.md R155). -/
def signedQuotient (sa sb : Bool) (qm : Nat) : Int := if sa != sb then -(qm : Int) else (qm : Int)

/-- The column `dec0` of the table of 10_state.md R35. -/
def dec0Value (s : State) : Int :=
  match s.opr with
  | .mul | .asrp | .shlp       => bitsToDecimal (pair s.dp.a s.dp.q)
  | .divr | .cvt | .add | .neg => bitsToDecimal s.dp.q
  | .divnr                     => signedQuotient s.sa s.sb s.qm

/-- The column `dec1` of the table of 10_state.md R35. -/
def dec1Value (s : State) : Int :=
  match s.opr with
  | .divr  => bitsToDecimal s.dp.a
  | .divnr => s.r
  | .mul | .cvt | .add | .neg | .asrp | .shlp => 0

/-- The output `dec0`, specified in `DONE` only (10_state.md R35). -/
def dec0 (s : State) : Option Int := if s.phase = .done then some (dec0Value s) else none

/-- The output `dec1`, specified in `DONE` only (10_state.md R35). -/
def dec1 (s : State) : Option Int := if s.phase = .done then some (dec1Value s) else none

/-- A row of the state tables of 95_test_vectors.md: every register, `none` where it holds no value; a bit register is
given by its unsigned reading. -/
structure View where
  phase : Phase
  err   : ErrorCode
  opr   : Option Command
  cnt   : Option Nat
  n     : Option Nat
  a     : Option Nat
  q     : Option Nat
  m     : Option Nat
  negm  : Option Nat
  x     : Option Bool
  sa    : Option Bool
  sb    : Option Bool
  v     : Option Nat
  d     : Option Nat
  nb    : Option Nat
  r     : Option Int
  qm    : Option Nat
deriving DecidableEq, Repr

/-- `v` if the register holds a value (10_state.md R38). -/
def State.seen {α : Type} (s : State) (reg : Register) (v : α) : Option α := if s.holds reg then some v else none

/-- The registers that hold a value, and nothing else of the state (10_state.md R38 to R40). -/
def State.view (s : State) : View where
  phase := s.phase
  err   := s.err
  opr   := s.seen .opr s.opr
  cnt   := s.seen .cnt s.cnt
  n     := s.seen .n s.dp.n
  a     := s.seen .a (uval s.dp.a)
  q     := s.seen .q (uval s.dp.q)
  m     := s.seen .m (uval s.dp.m)
  negm  := s.seen .negm (uval s.dp.negm)
  x     := s.seen .x s.x
  sa    := s.seen .sa s.sa
  sb    := s.seen .sb s.sb
  v     := s.seen .v s.v
  d     := s.seen .d s.d
  nb    := s.seen .nb s.nb
  r     := s.seen .r s.r
  qm    := s.seen .qm s.qm

end Sys2Proof.Machine
end

