-- ==== Sys2Proof/Safety.lean ====
section
/-!
DEFINITION. The words the statements are made of: when a command is accepted, runs of several steps, how many steps a
command takes, and the invariant that every step keeps.
-/
namespace Sys2Proof.Machine

/-- The next step accepts a start of the command `i` (10_state.md R41, 30_encoding.md R76). -/
abbrev Accepts (s : State) (i : Instr) : Prop :=
  s.port.rst = false ∧ s.port.start = true ∧ s.phase ≠ .run ∧ decode s.port.cmd = .ok i

/-- The next step accepts a start of the command `i`, and its entry check raises no error (60_exceptions.md R175). -/
abbrev AcceptsCleanly (s : State) (i : Instr) : Prop := Accepts s i ∧ entryCheck s.cfg i = .none

/-- The caller asks for no reset in the next `k` steps. -/
abbrev NoReset (k : Nat) (s : State) : Prop := ∀ p ∈ s.inputs.take k, p.rst = false

/-- The caller asks for neither a reset nor a start in the next `k` steps. -/
abbrev Quiet (k : Nat) (s : State) : Prop := ∀ p ∈ s.inputs.take k, p.rst = false ∧ p.start = false

/-- `k` steps, stopping where a step stops. -/
def steps : Nat → State → Host.Outcome State Fault Refusal
  | 0, s     => .next s
  | k + 1, s =>
    match step s with
    | .next t    => steps k t
    | .fault r   => .fault r
    | .refused r => .refused r

/-- Steps of a command from its accepted start to `DONE`, both included (70_reset_and_hazards.md R206). -/
def stepCount : Instr → Nat
  | .mul _ n _ _ | .divr _ n _ _ => n + 2
  | .divnr a _ => max 1 (bitlen a.natAbs) + 2
  | .cvt .. | .add .. | .neg .. | .asrp .. | .shlp .. => 1

/-- The value of an operand as the `n`-bit register holds it, `a'` and `b'` of the spec's laws (42_booth_multiplier.md
R120, 43_restoring_divider.md R135). -/
def held (v : Int) (n : Nat) : Int := bitsToDecimal (decimalToBits v n)

/-- Exactly the registers of `regs` hold values in `t` (10_state.md R38). -/
def HoldsExactly (t : State) (regs : List Register) : Prop := ∀ reg, t.holds reg = true ↔ reg ∈ regs

/-- `t` is what the accepted start step of a command with cycles leaves of `s`: `RUN`, no error, the command latched,
the counter at 0, exactly `regs` holding values; parameters and ports untouched (30_encoding.md R76, 10_state.md R40). -/
structure Started (c : Command) (regs : List Register) (s t : State) : Prop where
  phase  : t.phase = .run
  err    : t.err = .none
  opr    : t.opr = c
  cnt    : t.cnt = 0
  holds  : HoldsExactly t regs
  cfg    : t.cfg = s.cfg
  inputs : t.inputs = s.inputs

/-- `t` is what the start step of a primitive command leaves of `s`: `DONE` with `A = a`, `Q = q`, `X = bit` at width `n`
on the registers and on the outputs, `dec1 = 0`; every other register holds no value (10_state.md R35, R40). -/
structure Completed (c : Command) (n : Nat) (a q : BitVec n) (bit : Bool) (s t : State) : Prop where
  phase  : t.phase = .done
  err    : t.err = .none
  opr    : t.opr = c
  dp     : ∃ m negm : BitVec n, t.dp = ⟨n, a, q, m, negm⟩
  x      : t.x = bit
  rhi    : rhi t = some t.dp.a
  rlo    : rlo t = some t.dp.q
  rx     : rx t = some bit
  dec1   : dec1 t = some 0
  holds  : HoldsExactly t [.opr, .n, .err, .phase, .a, .q, .x]
  cfg    : t.cfg = s.cfg
  inputs : t.inputs = s.inputs

/-- The registers of a run hold values: `PHASE` is `RUN` or `DONE` (10_state.md R38). -/
abbrev InRun (s : State) : Prop := s.phase = .run ∨ s.phase = .done

/-- The running remainder of a `DIVNR` run after `CNT` cycles (44_non_restoring_divider.md R157, R160): it lies in
`[-D, D-1]`, and with the top `CNT` bits of the dividend and the quotient so far it satisfies the division identity, one
divisor too low when it is negative. -/
structure DivnrRemainder (s : State) : Prop where
  lower    : -(s.d : Int) ≤ s.r
  upper    : s.r < (s.d : Int)
  identity : s.r = ((s.v / 2 ^ (s.nb - s.cnt) : Nat) : Int) - (s.d : Int) * ((s.qm : Int) + if s.r < 0 then 1 else 0)
  quotient : s.qm < 2 ^ s.cnt

/-- The invariant of the machine. Each field names the rule that says the machine never leaves it. -/
structure Inv (s : State) : Prop where
  /-- `WMAX >= 1` (00_scope.md R9). -/
  wmaxPositive : 1 ≤ s.cfg.wmax
  /-- `ERR` is non-zero exactly in `PHASE = ERR` (10_state.md R36). -/
  errorPhase : s.phase = .err ↔ s.err ≠ .none
  /-- `CNT` is 0 until the first start (10_state.md R39). -/
  idleCount : s.phase = .idle → s.cnt = 0
  /-- In `RUN` a command with cycles is latched and `CNT <= LIM` (10_state.md R30, R31, R33). -/
  running : s.phase = .run → ∃ lim, limit s = some lim ∧ s.cnt ≤ lim
  /-- A completed run made exactly `LIM` cycles (10_state.md R31). -/
  completed : s.phase = .done → ∀ lim, limit s = some lim → s.cnt = lim
  /-- The latched run width lies in `1..WMAX` (10_state.md R26). -/
  width : InRun s → s.opr ≠ .divnr → 1 ≤ s.dp.n ∧ s.dp.n ≤ s.cfg.wmax
  /-- `NEGM` is always `negateBits(M)` (10_state.md R24). -/
  negated : InRun s → s.opr = .mul ∨ s.opr = .divr → s.dp.negm = negateBits s.dp.m
  /-- The commands that do not use the ExtraBit leave it 0 (10_state.md R25). -/
  extraBit : InRun s → s.opr ≠ .mul → s.opr ≠ .asrp → s.opr ≠ .divnr → s.x = false
  /-- `CVT`, `ADD`, `NEG` leave the high half 0 (10_state.md R35). -/
  highHalf : InRun s → s.opr = .cvt ∨ s.opr = .add ∨ s.opr = .neg → s.dp.a = 0
  /-- `D > 0` and `NB = max(1, bitlen(V))` (10_state.md R29). -/
  magnitudes : InRun s → s.opr = .divnr → 1 ≤ s.d ∧ s.nb = nbits s.v
  /-- The running remainder of `DIVNR` (44_non_restoring_divider.md R157). -/
  remainder : s.phase = .run → s.opr = .divnr → DivnrRemainder s
  /-- The result of `DIVNR`: `V = D * QM + R`, `0 <= R < D` (44_non_restoring_divider.md R157). -/
  division : s.phase = .done → s.opr = .divnr →
    (s.v : Int) = (s.d : Int) * (s.qm : Int) + s.r ∧ 0 ≤ s.r ∧ s.r < (s.d : Int)

end Sys2Proof.Machine
end

