-- ==== Sys2Proof/Certificates/Slice0/Obligations.lean ====
section
/-!
DEFINITION. The statements about the machine. Each docstring says which rule of spec/ it formalises. Registers that
hold no value are in none of them (93_implementation_defined.md U5: "no theorem may mention them").
-/

open Sys2Proof Sys2Proof.Machine

/-! ### Reset and the step function (files 10 and 70) -/

/-- 10_state.md R39, for an instance with any parameters and any caller: after reset `PHASE = IDLE`, `ERR = 0`,
`CNT = 0`, the status outputs are 0, the data outputs unspecified, and no other register holds a value. -/
def Obligations.ResetStateHoldsOnlyPhaseErrCnt : Prop :=
  ∀ t : State, (t = State.reset ∨ ∃ (c : Config) (is : List Inputs), t = State.resetWith c is) →
    t.phase = .idle ∧ t.err = .none ∧ t.cnt = 0 ∧ busy t = false ∧ done t = false ∧ errOut t = 0 ∧
    rhi t = none ∧ rlo t = none ∧ rx t = none ∧ dec0 t = none ∧ dec1 t = none ∧ HoldsExactly t [.phase, .err, .cnt]

/-- 70_reset_and_hazards.md R195, R196: a step with `rst = 1` is a reset step in every state and whatever the other
ports hold; a run in progress is abandoned, and nothing of it holds a value. -/
def Obligations.ResetStepEndsInIdleFromAnyState : Prop :=
  ∀ s : State, s.port.rst = true → ∃ t, step s = .next t ∧
    t.phase = .idle ∧ t.err = .none ∧ t.cnt = 0 ∧ busy t = false ∧ done t = false ∧ errOut t = 0 ∧
    HoldsExactly t [.phase, .err, .cnt] ∧ t.cfg = s.cfg ∧ t.inputs = s.inputs.tail

/-- The step table (10_state.md section 9): which step applies, and that there is exactly one next state. That in `RUN` the
step is idle when `CNT` is above `LIM`, and when a primitive command is latched (`limit s = none`), is the model's own
reading (assumption 13, DEDUCED): the rule's `else` gives the idle step, no run reaches these states, and the spec gives
a primitive command no `LIM`. -/
def Obligations.StepFollowsTheStepTable : Prop :=
  ∀ s : State,
    (∃! t, step s = .next t) ∧
    (s.port.rst = true → step s = .next s.sample.resetStep) ∧
    (s.port.rst = false → s.phase ≠ .run →
      step s = if s.port.start then acceptStart s.port.cmd s.sample else .next s.sample) ∧
    (s.port.rst = false → s.phase = .run → ∀ lim, limit s = some lim →
      step s = .next (if s.cnt < lim then cycleStep s.sample else if s.cnt = lim then finishStep s.sample else s.sample)) ∧
    (s.port.rst = false → s.phase = .run → limit s = none → step s = .next s.sample)

/-- When the ports of an accepted start decode to the command `i`, the step is `exec i` on the state whose ports have
been taken (30_encoding.md section 6, 10_state.md section 9). That the caller is a list of port values, and that `exec` is
the start step alone, is the model's own form (assumptions 6 and 9). -/
def Obligations.StepRunsTheDecodedCommand : Prop :=
  ∀ (s : State) (i : Instr), Accepts s i → step s = exec i s.sample

/-- 10_state.md R30: the transitions of `PHASE`, and no other. -/
def Obligations.PhaseMovesOnlyAsTheRuleSays : Prop :=
  ∀ s t : State, step s = .next t →
    (s.port.rst = true → t.phase = .idle) ∧
    (s.port.rst = false → s.phase = .run → t.phase = .run ∨ (t.phase = .done ∧ limit s = some s.cnt)) ∧
    (s.port.rst = false → s.phase ≠ .run → s.port.start = false → t.phase = s.phase) ∧
    (s.port.rst = false → s.phase ≠ .run → s.port.start = true →
      t.phase = .err ∨ (t.phase = .run ∧ (t.opr = .mul ∨ t.opr = .divr ∨ t.opr = .divnr)) ∨
      (t.phase = .done ∧ (t.opr = .cvt ∨ t.opr = .add ∨ t.opr = .neg ∨ t.opr = .asrp ∨ t.opr = .shlp)))

/-- 70_reset_and_hazards.md R200: in `RUN` the ports other than `rst` are not read, a start is lost and not queued; the
finish step is still a `RUN` step, and the step after it is the earliest that accepts a start. -/
def Obligations.StartDuringARunIsLost : Prop :=
  ∀ (s : State) (p p' : Inputs) (is : List Inputs), s.phase = .run → p.rst = false → p'.rst = false →
    step { s with inputs := p :: is } = step { s with inputs := p' :: is } ∧
    (∀ t, step { s with inputs := p :: is } = .next t → t.inputs = is ∧ (t.phase = .run ∨ done t = true)) ∧
    (∀ lim, limit s = some lim → s.cnt = lim → ∃ t, step { s with inputs := p :: is } = .next t ∧ done t = true)

/-- 70_reset_and_hazards.md R201, R207: with neither reset nor start the machine stays as it is, outputs included, for
any number of steps; and `dec0`, `dec1` are specified exactly in `DONE`, `rhi`, `rlo`, `rx` exactly in `RUN` and `DONE`
of a command other than `DIVNR`. -/
def Obligations.ResultsStayUntilStartOrReset : Prop :=
  (∀ (s : State) (k : Nat), s.phase ≠ .run → Quiet k s → steps k s = .next { s with inputs := s.inputs.drop k }) ∧
  (∀ s : State,
    ((dec0 s).isSome = true ↔ s.phase = .done) ∧ ((dec1 s).isSome = true ↔ s.phase = .done) ∧
    ((rhi s).isSome = true ↔ InRun s ∧ s.opr ≠ .divnr) ∧ ((rlo s).isSome = true ↔ InRun s ∧ s.opr ≠ .divnr) ∧
    ((rx s).isSome = true ↔ InRun s ∧ s.opr ≠ .divnr))

/-- 10_state.md R36: the status outputs, with the codes of `ERR`, and that all three are 0 after reset. The clause
`err` non-zero iff `PHASE = ERR` holds of the states that meet the invariant. -/
def Obligations.StatusOutputsFollowPhaseAndErr : Prop :=
  (∀ s : State, (busy s = true ↔ s.phase = .run) ∧ (done s = true ↔ s.phase = .done) ∧ errOut s = s.err.code ∧
    (Inv s → (errOut s ≠ 0 ↔ s.phase = .err))) ∧
  ErrorCode.none.code = 0 ∧ ErrorCode.divisionByZero.code = 1 ∧ ErrorCode.insufficientWidth.code = 2 ∧
  ErrorCode.illegalCommand.code = 3 ∧
  ∀ (c : Config) (is : List Inputs), busy (State.resetWith c is) = false ∧ done (State.resetWith c is) = false ∧
    errOut (State.resetWith c is) = 0

/-- 10_state.md R35: the table of the data outputs. The remarks "always 0" hold of the states that meet the invariant. -/
def Obligations.DataOutputsFollowTheTable : Prop :=
  ∀ s : State,
    (¬ InRun s → rhi s = none ∧ rlo s = none ∧ rx s = none) ∧
    (s.opr = .divnr → rhi s = none ∧ rlo s = none ∧ rx s = none) ∧
    (InRun s → s.opr ≠ .divnr → rhi s = some s.dp.a ∧ rlo s = some s.dp.q ∧ rx s = some s.x) ∧
    (s.phase ≠ .done → dec0 s = none ∧ dec1 s = none) ∧
    (s.phase = .done → s.opr = .mul ∨ s.opr = .asrp ∨ s.opr = .shlp →
      dec0 s = some (bitsToDecimal (pair s.dp.a s.dp.q)) ∧ dec1 s = some 0) ∧
    (s.phase = .done → s.opr = .divr → dec0 s = some (bitsToDecimal s.dp.q) ∧ dec1 s = some (bitsToDecimal s.dp.a)) ∧
    (s.phase = .done → s.opr = .divnr →
      dec0 s = some (if s.sa ≠ s.sb then -(s.qm : Int) else s.qm) ∧ dec1 s = some s.r) ∧
    (s.phase = .done → s.opr = .cvt ∨ s.opr = .add ∨ s.opr = .neg →
      dec0 s = some (bitsToDecimal s.dp.q) ∧ dec1 s = some 0) ∧
    (Inv s → InRun s → s.opr = .divr ∨ s.opr = .cvt ∨ s.opr = .add ∨ s.opr = .neg ∨ s.opr = .shlp →
      rx s = some false) ∧
    (Inv s → InRun s → s.opr = .cvt ∨ s.opr = .add ∨ s.opr = .neg → rhi s = some 0)

/-! ### Decoding (file 30) -/

/-- 30_encoding.md R69 with the codes of R67: the decoder selects on `op` alone and takes from the ports exactly the
fields the command reads; the eight reserved codes are rejected by name (R68, R73). -/
def Obligations.DecoderReadsTheFieldsOfTheTable : Prop :=
  ∀ (g : Bool) (n : Nat) (a b : Int),
    decode ⟨0b0001, g, n, a, b⟩ = .ok (.mul g n a b) ∧ decode ⟨0b0010, g, n, a, b⟩ = .ok (.divr g n a b) ∧
    decode ⟨0b0011, g, n, a, b⟩ = .ok (.divnr a b) ∧ decode ⟨0b1000, g, n, a, b⟩ = .ok (.cvt n a) ∧
    decode ⟨0b1001, g, n, a, b⟩ = .ok (.add n a b) ∧ decode ⟨0b1010, g, n, a, b⟩ = .ok (.neg n a) ∧
    decode ⟨0b1100, g, n, a, b⟩ = .ok (.asrp n a b) ∧ decode ⟨0b1101, g, n, a, b⟩ = .ok (.shlp n a b) ∧
    ∀ op ∈ ([0b0000, 0b0100, 0b0101, 0b0110, 0b0111, 0b1011, 0b1110, 0b1111] : List OpCode),
      decode ⟨op, g, n, a, b⟩ = .error (.reservedOp op)

/-- Decode and encode agree, with every operand at every value: encoding loses nothing, two commands have different
ports, and what the decoder accepts has the code that the encoder gives the command it answers. That the encoder puts
zero on the ports a command ignores is the model's own choice (assumption 5). -/
def Obligations.DecodeInvertsEncode : Prop :=
  (∀ i : Instr, decode (encode i) = .ok i) ∧
  (∀ i j : Instr, encode i = encode j → i = j) ∧
  (∀ (p : CommandPorts) (i : Instr), decode p = .ok i →
    p.op = (encode i).op ∧ ∀ p' : CommandPorts, p' = { encode i with op := p.op } → decode p' = .ok i)

/-- The eight rows of the command table as words, and two words that are no row. The codes and the reserved codes are those
of 30_encoding.md sections 2 and 3. The layout of a word is the model's own choice (assumption 5, DESIGN CHOICE): `op` in
its low four bits and every other port zero; the spec's command is a set of ports and has no byte form. -/
def Obligations.TableWordsDecode : Prop :=
  decodeTableWord 8 0b0001 = some (.mul false 0 0 0) ∧ decodeTableWord 8 0b0010 = some (.divr false 0 0 0) ∧
  decodeTableWord 8 0b0011 = some (.divnr 0 0) ∧ decodeTableWord 8 0b1000 = some (.cvt 0 0) ∧
  decodeTableWord 8 0b1001 = some (.add 0 0 0) ∧ decodeTableWord 8 0b1010 = some (.neg 0 0) ∧
  decodeTableWord 8 0b1100 = some (.asrp 0 0 0) ∧ decodeTableWord 8 0b1101 = some (.shlp 0 0 0) ∧
  decodeTableWord 8 0b0000 = none ∧ decodeTableWord 8 0b1111 = none

/-! ### Errors (file 60) -/

/-- 60_exceptions.md R175, written on the ports: the error an accepted start leaves in `ERR` is that of the first test
that fires. -/
def Obligations.StartReportsTheFirstErrorOfTheEntryCheck : Prop :=
  ∀ s : State, s.port.rst = false → s.port.start = true → s.phase ≠ .run → ∃ t, step s = .next t ∧
    t.err =
      if s.port.cmd.op ∈ ([0b0000, 0b0100, 0b0101, 0b0110, 0b0111, 0b1011, 0b1110, 0b1111] : List OpCode) then
        .illegalCommand
      else if s.port.cmd.op ≠ 0b0011 ∧ (s.port.cmd.width = 0 ∨ s.cfg.wmax < s.port.cmd.width) then .illegalCommand
      else if (s.port.cmd.op = 0b0010 ∨ s.port.cmd.op = 0b0011) ∧ s.port.cmd.b = 0 then .divisionByZero
      else if (s.port.cmd.op = 0b0001 ∨ s.port.cmd.op = 0b0010) ∧ s.port.cmd.wchk = true ∧
          ¬ (fits s.port.cmd.a (s.port.cmd.width - 1) = true ∧ fits s.port.cmd.b (s.port.cmd.width - 1) = true) then
        .insufficientWidth
      else .none

/-- 60_exceptions.md R174 as well-formedness: a command whose `op` is defined raises `IllegalCommand` exactly when it is
not well formed for the instance. -/
def Obligations.IllegalCommandExactlyWhenIllFormed : Prop :=
  ∀ (c : Config) (i : Instr), entryCheck c i = .illegalCommand ↔ i.WellFormed c = false

/-- 60_exceptions.md R176: what a rejected start does, for a command of the table and for a code that is none. The
status outputs show the code, no data output is specified, only `PHASE` and `ERR` hold values, parameters and ports are
untouched. -/
def Obligations.RejectedCommandLeavesOnlyItsError : Prop :=
  (∀ (s : State) (i : Instr), entryCheck s.cfg i ≠ .none → ∃ t, exec i s = .next t ∧
    t.err = entryCheck s.cfg i ∧ t.phase = .err ∧ errOut t = (entryCheck s.cfg i).code ∧ busy t = false ∧
    done t = false ∧ rhi t = none ∧ rlo t = none ∧ rx t = none ∧ dec0 t = none ∧ dec1 t = none ∧
    HoldsExactly t [.phase, .err] ∧ t.cfg = s.cfg ∧ t.inputs = s.inputs) ∧
  (∀ s : State, s.port.rst = false → s.port.start = true → s.phase ≠ .run → (∀ i, decode s.port.cmd ≠ .ok i) →
    ∃ t, step s = .next t ∧ t.err = .illegalCommand ∧ t.phase = .err ∧ errOut t = 3 ∧ busy t = false ∧
    done t = false ∧ rhi t = none ∧ rlo t = none ∧ rx t = none ∧ dec0 t = none ∧ dec1 t = none ∧
    HoldsExactly t [.phase, .err] ∧ t.cfg = s.cfg ∧ t.inputs = s.inputs.tail)

/-- 60_exceptions.md R173, 30_encoding.md R68: an accepted start with a reserved code raises `IllegalCommand`; no register
is loaded and no run takes place. -/
def Obligations.ReservedCodeRaisesIllegalCommand : Prop :=
  ∀ s : State, s.port.rst = false → s.port.start = true → s.phase ≠ .run →
    s.port.cmd.op ∈ ([0b0000, 0b0100, 0b0101, 0b0110, 0b0111, 0b1011, 0b1110, 0b1111] : List OpCode) →
    ∃ t, step s = .next t ∧ t.err = .illegalCommand ∧ t.phase = .err ∧ HoldsExactly t [.phase, .err]

/-- 60_exceptions.md R179: `ERR` is left by the next accepted start, which sets the error to its own outcome, or by
reset; until then it stays. -/
def Obligations.ErrorIsLeftByStartOrReset : Prop :=
  ∀ s : State, s.phase = .err →
    (∀ i, Accepts s i → ∃ t, step s = .next t ∧ t.err = entryCheck s.cfg i ∧
      (entryCheck s.cfg i = .none → t.phase ≠ .err)) ∧
    (s.port.rst = false → s.port.start = true → (∀ i, decode s.port.cmd ≠ .ok i) →
      ∃ t, step s = .next t ∧ t.err = .illegalCommand) ∧
    (s.port.rst = true → ∃ t, step s = .next t ∧ t.phase = .idle ∧ t.err = .none) ∧
    (s.port.rst = false → s.port.start = false → step s = .next s.sample)

/-- The errors of each command, raised in the start step (42_booth_multiplier.md R123, 43_restoring_divider.md R134,
44_non_restoring_divider.md R156), and none later: no step of a run changes `ERR`. -/
def Obligations.ErrorsOfEachDivisionAndMultiplication : Prop :=
  (∀ (s : State) (g : Bool) (n : Nat) (a b : Int), ∃ t, exec (.mul g n a b) s = .next t ∧
    t.err = if n = 0 ∨ s.cfg.wmax < n then .illegalCommand
      else if g = true ∧ ¬ (fits a (n - 1) = true ∧ fits b (n - 1) = true) then .insufficientWidth else .none) ∧
  (∀ (s : State) (g : Bool) (n : Nat) (a b : Int), ∃ t, exec (.divr g n a b) s = .next t ∧
    t.err = if n = 0 ∨ s.cfg.wmax < n then .illegalCommand
      else if b = 0 then .divisionByZero
      else if g = true ∧ ¬ (fits a (n - 1) = true ∧ fits b (n - 1) = true) then .insufficientWidth else .none) ∧
  (∀ (s : State) (a b : Int), ∃ t, exec (.divnr a b) s = .next t ∧
    t.err = if b = 0 then .divisionByZero else .none) ∧
  (∀ s t : State, s.phase = .run → s.port.rst = false → step s = .next t → t.err = s.err)

/-! ### The functions on registers (files 20, 40, 41) -/

/-- 40_two_complement_adder.md R90: the value and every bit of `decimalToBits`, and that it is exact on the range. -/
def Obligations.DecimalToBitsTakesTheLowBits : Prop :=
  ∀ (v : Int) (w : Nat), 1 ≤ w →
    (uval (decimalToBits v w) : Int) = v % 2 ^ w ∧
    (∀ i, i < w → ((decimalToBits v w).getLsbD i = true ↔ v / 2 ^ i % 2 = 1)) ∧
    (-(2 : Int) ^ (w - 1) ≤ v → v ≤ 2 ^ (w - 1) - 1 → bitsToDecimal (decimalToBits v w) = v)

/-- 40_two_complement_adder.md R91: `unsignedValue` if the MSB is 0, else `unsignedValue - 2^width`. -/
def Obligations.BitsToDecimalReadsTheMsbAsSign : Prop :=
  ∀ (w : Nat) (r : BitVec w), 1 ≤ w →
    bitsToDecimal r = if r.getLsbD (w - 1) = true then (uval r : Int) - 2 ^ w else uval r

/-- 40_two_complement_adder.md R92: `addBits` is the ripple of the rule (`c` is its carry, whatever function obeys the
rule's two equations), its unsigned value is the sum modulo `2^w`, and its signed value the sum wrapped. -/
def Obligations.AddBitsIsRippleCarry : Prop :=
  ∀ (w : Nat) (x y : BitVec w),
    (∀ c : Nat → Bool, c 0 = false →
      (∀ i, c (i + 1) = ((x.getLsbD i && y.getLsbD i) || (x.getLsbD i && c i) || (y.getLsbD i && c i))) →
      ∀ i, i < w → (addBits x y).getLsbD i = ((x.getLsbD i).xor ((y.getLsbD i).xor (c i)))) ∧
    uval (addBits x y) = (uval x + uval y) % 2 ^ w ∧
    bitsToDecimal (addBits x y) = (bitsToDecimal x + bitsToDecimal y).bmod (2 ^ w)

/-- 40_two_complement_adder.md R93: complement and add one; the unsigned value; the sign changes but at the minimum
value, which with zero is a fixed point. -/
def Obligations.NegateBitsNegatesAllButTheMinimum : Prop :=
  ∀ (w : Nat) (x : BitVec w), 1 ≤ w →
    negateBits x = addBits (~~~x) (decimalToBits 1 w) ∧
    uval (negateBits x) = (2 ^ w - uval x) % 2 ^ w ∧
    (bitsToDecimal x ≠ -(2 : Int) ^ (w - 1) → bitsToDecimal (negateBits x) = -bitsToDecimal x) ∧
    (bitsToDecimal x = -(2 : Int) ^ (w - 1) → negateBits x = x) ∧
    negateBits (0 : BitVec w) = 0

/-- The round trips of 40_two_complement_adder.md section 1: negating twice is the identity, also at the minimum value;
converting there and back is the identity on registers, on integers in range, and changes an integer by a multiple of
`2^w` out of range. -/
def Obligations.ConversionsAndNegationRoundTrip : Prop :=
  ∀ w : Nat, 1 ≤ w →
    (∀ x : BitVec w, negateBits (negateBits x) = x) ∧
    (∀ r : BitVec w, decimalToBits (bitsToDecimal r) w = r) ∧
    (∀ v : Int, fits v w = true → bitsToDecimal (decimalToBits v w) = v) ∧
    (∀ v : Int, fits (held v w) w = true ∧ (v - held v w) % 2 ^ w = 0)

/-- 40_two_complement_adder.md R98: `fits` is the stated range, empty at width 0, and is where `decimalToBits` does not
wrap. -/
def Obligations.FitsIsTheRangeWithoutWrap : Prop :=
  ∀ v : Int, fits v 0 = false ∧ ∀ w : Nat, 1 ≤ w →
    (fits v w = true ↔ -(2 : Int) ^ (w - 1) ≤ v ∧ v ≤ 2 ^ (w - 1) - 1) ∧
    (fits v w = true ↔ held v w = v)

/-- 20_memory.md R53: the pair `{A, Q}` read as one value. -/
def Obligations.PairReadsAHigh : Prop :=
  ∀ (w : Nat) (a q : BitVec w), 1 ≤ w →
    uval (pair a q) = uval a * 2 ^ w + uval q ∧
    (pair a q).getLsbD (2 * w - 1) = a.getLsbD (w - 1) ∧ (pair a q).getLsbD 0 = q.getLsbD 0

/-- 41_shift_pair_unit.md R105: every bit of `asrPair`. -/
def Obligations.AsrPairShiftsRightKeepingTheSign : Prop :=
  ∀ (w : Nat) (a q : BitVec w), 1 ≤ w →
    asrPairX q = q.getLsbD 0 ∧
    (∀ i, i < w → (asrPairQ a q).getLsbD i = if i = w - 1 then a.getLsbD 0 else q.getLsbD (i + 1)) ∧
    (∀ i, i < w → (asrPairA a).getLsbD i = if i = w - 1 then a.getLsbD (w - 1) else a.getLsbD (i + 1))

/-- 41_shift_pair_unit.md R106: every bit of `shlPair`. -/
def Obligations.ShlPairShiftsLeftDroppingTheMsb : Prop :=
  ∀ (w : Nat) (a q : BitVec w), 1 ≤ w →
    (∀ i, i < w → (shlPairA a q).getLsbD i = if i = 0 then q.getLsbD (w - 1) else a.getLsbD (i - 1)) ∧
    (∀ i, i < w → (shlPairQ q).getLsbD i = if i = 0 then false else q.getLsbD (i - 1))

/-- The two pair shifts as arithmetic (41_shift_pair_unit.md section 1, the remarks it derives): `asrPair` halves the
signed pair, rounding down; `shlPair` doubles the unsigned pair modulo `2^(2w)`. -/
def Obligations.PairShiftsHalveAndDouble : Prop :=
  ∀ (w : Nat) (a q : BitVec w), 1 ≤ w →
    bitsToDecimal (pair (asrPairA a) (asrPairQ a q)) = bitsToDecimal (pair a q) / 2 ∧
    uval (pair (shlPairA a q) (shlPairQ q)) = 2 * uval (pair a q) % 2 ^ (2 * w)

/-- 44_non_restoring_divider.md R152: `nbits` is the least number of bits that holds the magnitude, at least 1, and it
is what the start step of `DIVNR` puts in `NB`, whatever the divisor. -/
def Obligations.NbitsIsTheLeastSufficientLength : Prop :=
  (∀ v : Nat, nbits v = max 1 (bitlen v) ∧ 1 ≤ nbits v ∧ v < 2 ^ nbits v ∧
    (∀ k, 1 ≤ k → v < 2 ^ k → nbits v ≤ k)) ∧
  (∀ (s : State) (a b : Int), b ≠ 0 → ∃ t, exec (.divnr a b) s = .next t ∧ t.nb = nbits a.natAbs)

/-! ### The primitive commands (files 40, 41) -/

/-- 40_two_complement_adder.md R95: `CVT a, n`, its only error, and its code. -/
def Obligations.CvtConvertsItsOperand : Prop :=
  ∀ (s : State) (n : Nat) (a : Int),
    (1 ≤ n → n ≤ s.cfg.wmax → ∃ t, exec (.cvt n a) s = .next t ∧
      Completed .cvt n 0 (decimalToBits a n) false s t ∧ dec0 t = some (bitsToDecimal (decimalToBits a n))) ∧
    (n = 0 ∨ s.cfg.wmax < n → ∃ t, exec (.cvt n a) s = .next t ∧ t.err = .illegalCommand ∧ t.phase = .err) ∧
    (encode (.cvt n a)).op = 0b1000

/-- 40_two_complement_adder.md R96: `ADD a, b, n`, the sum of the operands wrapped, its only error, and its code. -/
def Obligations.AddAddsAndWraps : Prop :=
  ∀ (s : State) (n : Nat) (a b : Int),
    (1 ≤ n → n ≤ s.cfg.wmax → ∃ t, exec (.add n a b) s = .next t ∧
      Completed .add n 0 (addBits (decimalToBits a n) (decimalToBits b n)) false s t ∧
      dec0 t = some (bitsToDecimal (addBits (decimalToBits a n) (decimalToBits b n))) ∧
      dec0 t = some (held (a + b) n)) ∧
    (n = 0 ∨ s.cfg.wmax < n → ∃ t, exec (.add n a b) s = .next t ∧ t.err = .illegalCommand ∧ t.phase = .err) ∧
    (encode (.add n a b)).op = 0b1001

/-- 40_two_complement_adder.md R97: `NEG a, n`, the negated operand wrapped, its only error, and its code. -/
def Obligations.NegNegatesAndWraps : Prop :=
  ∀ (s : State) (n : Nat) (a : Int),
    (1 ≤ n → n ≤ s.cfg.wmax → ∃ t, exec (.neg n a) s = .next t ∧
      Completed .neg n 0 (negateBits (decimalToBits a n)) false s t ∧
      dec0 t = some (bitsToDecimal (negateBits (decimalToBits a n))) ∧
      dec0 t = some (held (-a) n)) ∧
    (n = 0 ∨ s.cfg.wmax < n → ∃ t, exec (.neg n a) s = .next t ∧ t.err = .illegalCommand ∧ t.phase = .err) ∧
    (encode (.neg n a)).op = 0b1010

/-- 41_shift_pair_unit.md R108: `ASRP a, b, n`, its only error, and its code. -/
def Obligations.AsrpShiftsThePairRight : Prop :=
  ∀ (s : State) (n : Nat) (a b : Int),
    (1 ≤ n → n ≤ s.cfg.wmax → ∃ t, exec (.asrp n a b) s = .next t ∧
      Completed .asrp n (asrPairA (decimalToBits a n)) (asrPairQ (decimalToBits a n) (decimalToBits b n))
        ((decimalToBits b n).getLsbD 0) s t ∧
      dec0 t = some (bitsToDecimal
        (pair (asrPairA (decimalToBits a n)) (asrPairQ (decimalToBits a n) (decimalToBits b n))))) ∧
    (n = 0 ∨ s.cfg.wmax < n → ∃ t, exec (.asrp n a b) s = .next t ∧ t.err = .illegalCommand ∧ t.phase = .err) ∧
    (encode (.asrp n a b)).op = 0b1100

/-- 41_shift_pair_unit.md R109: `SHLP a, b, n`, its only error, and its code. -/
def Obligations.ShlpShiftsThePairLeft : Prop :=
  ∀ (s : State) (n : Nat) (a b : Int),
    (1 ≤ n → n ≤ s.cfg.wmax → ∃ t, exec (.shlp n a b) s = .next t ∧
      Completed .shlp n (shlPairA (decimalToBits a n) (decimalToBits b n)) (shlPairQ (decimalToBits b n)) false s t ∧
      dec0 t = some (bitsToDecimal
        (pair (shlPairA (decimalToBits a n) (decimalToBits b n)) (shlPairQ (decimalToBits b n))))) ∧
    (n = 0 ∨ s.cfg.wmax < n → ∃ t, exec (.shlp n a b) s = .next t ∧ t.err = .illegalCommand ∧ t.phase = .err) ∧
    (encode (.shlp n a b)).op = 0b1101

/-! ### MUL (file 42) -/

/-- The start step of `MUL` and `MUL.G` on every accepted width and operands (42_booth_multiplier.md, load). The
placement of the operands and `A = 0`, `X = 0` are the spec's "classical Booth arrangement [from general knowledge, not
in source]" (assumption 10). -/
def Obligations.MulStartLoadsBoothRegisters : Prop :=
  ∀ (s : State) (g : Bool) (n : Nat) (a b : Int), 1 ≤ n → n ≤ s.cfg.wmax →
    (g = true → fits a (n - 1) = true ∧ fits b (n - 1) = true) →
    ∃ t, exec (.mul g n a b) s = .next t ∧
      Started .mul [.opr, .n, .err, .phase, .cnt, .a, .q, .m, .negm, .x] s t ∧
      t.dp = ⟨n, 0, decimalToBits b n, decimalToBits a n, negateBits (decimalToBits a n)⟩ ∧ t.x = false

/-- 42_booth_multiplier.md R116, R117: the cycle step of `MUL`, with everything it leaves unchanged: the next state is
the old one but for `A`, `Q`, `X`, `CNT` (and the ports taken). -/
def Obligations.MulCycleAddsThenShifts : Prop :=
  ∀ s : State, s.phase = .run → s.port.rst = false → s.opr = .mul → s.cnt < s.dp.n →
    ∃ a1 : BitVec s.dp.n,
      (s.dp.q.getLsbD 0 = false → s.x = false → a1 = s.dp.a) ∧
      (s.dp.q.getLsbD 0 = false → s.x = true → a1 = addBits s.dp.a s.dp.m) ∧
      (s.dp.q.getLsbD 0 = true → s.x = false → a1 = addBits s.dp.a s.dp.negm) ∧
      (s.dp.q.getLsbD 0 = true → s.x = true → a1 = s.dp.a) ∧
      step s = .next { s with
        inputs := s.inputs.tail
        dp := ⟨s.dp.n, asrPairA a1, asrPairQ a1 s.dp.q, s.dp.m, s.dp.negm⟩
        x := s.dp.q.getLsbD 0
        cnt := s.cnt + 1 }

/-- The finish step of `MUL` (42_booth_multiplier.md, finish): only `PHASE` changes, and the product is on the outputs. -/
def Obligations.MulFinishShowsThePair : Prop :=
  ∀ s : State, s.phase = .run → s.port.rst = false → s.opr = .mul → s.cnt = s.dp.n →
    ∃ t, step s = .next t ∧ t = { s with inputs := s.inputs.tail, phase := .done } ∧
      dec0 t = some (bitsToDecimal (pair s.dp.a s.dp.q)) ∧ dec1 t = some 0 ∧ rx t = some s.x

/-- The arithmetic law of `MUL` (42_booth_multiplier.md, the law it derives from its rules): for every multiplicand
register but the most negative one, the run of `n + 2` steps ends in `DONE` with the exact product of the operands as
the registers hold them, and `rx` the multiplier's MSB. -/
def Obligations.MulGivesTheProduct : Prop :=
  ∀ (s : State) (g : Bool) (n : Nat) (a b : Int), AcceptsCleanly s (.mul g n a b) → NoReset (n + 2) s →
    held a n ≠ -(2 : Int) ^ (n - 1) → ∃ t, steps (n + 2) s = .next t ∧ t.phase = .done ∧
      dec0 t = some (held a n * held b n) ∧ dec1 t = some 0 ∧ rx t = some ((decimalToBits b n).getLsbD (n - 1))

/-- The corner of `MUL` (42_booth_multiplier.md, corners it derives): the most negative multiplicand gives the product
with the wrong sign. -/
def Obligations.MulOfTheMostNegativeMultiplicand : Prop :=
  ∀ (s : State) (g : Bool) (n : Nat) (a b : Int), AcceptsCleanly s (.mul g n a b) → NoReset (n + 2) s →
    held a n = -(2 : Int) ^ (n - 1) → ∃ t, steps (n + 2) s = .next t ∧ t.phase = .done ∧
      dec0 t = some (-(held a n * held b n))

/-- `MUL.G` is exact (the document's property, 95_test_vectors.md Q1; 70_reset_and_hazards.md, sufficient width): when
the guard passes, `dec0 = a * b`. -/
def Obligations.GuardedMulIsExact : Prop :=
  ∀ (s : State) (n : Nat) (a b : Int), AcceptsCleanly s (.mul true n a b) → NoReset (n + 2) s →
    ∃ t, steps (n + 2) s = .next t ∧ t.phase = .done ∧ dec0 t = some (a * b)

/-! ### DIVR (file 43) -/

/-- 43_restoring_divider.md R130: the start step of `DIVR` and `DIVR.G` under both settings of `DIVR_A_INIT`, and the
code. -/
def Obligations.DivrStartLoadsDividendAndDivisor : Prop :=
  ∀ (s : State) (g : Bool) (n : Nat) (a b : Int), 1 ≤ n → n ≤ s.cfg.wmax → b ≠ 0 →
    (g = true → fits a (n - 1) = true ∧ fits b (n - 1) = true) →
    ∃ t acc, exec (.divr g n a b) s = .next t ∧
      Started .divr [.opr, .n, .err, .phase, .cnt, .a, .q, .m, .negm, .x, .sa, .sb] s t ∧
      t.dp = ⟨n, acc, decimalToBits a n, decimalToBits b n, negateBits (decimalToBits b n)⟩ ∧
      (s.cfg.divrAInit = .zero → acc = 0) ∧
      (s.cfg.divrAInit = .signExtend → ∀ i, i < n → acc.getLsbD i = (decimalToBits a n).getLsbD (n - 1)) ∧
      t.x = false ∧ (t.sa = true ↔ a < 0) ∧ (t.sb = true ↔ b < 0) ∧ (encode (.divr g n a b)).op = 0b0010

/-- 43_restoring_divider.md R131: the cycle step of `DIVR`, with everything it leaves unchanged. `a1` is `A` after the
shift, `a2` the trial. -/
def Obligations.DivrCycleTriesAndRestores : Prop :=
  ∀ s : State, s.phase = .run → s.port.rst = false → s.opr = .divr → s.cnt < s.dp.n →
    ∃ a1 a2 : BitVec s.dp.n, a1 = shlPairA s.dp.a s.dp.q ∧
      (a1.msb = s.dp.m.msb → a2 = addBits a1 s.dp.negm) ∧
      (a1.msb ≠ s.dp.m.msb → a2 = addBits a1 s.dp.m) ∧
      (a2.msb = a1.msb → step s = .next { s with
        inputs := s.inputs.tail
        dp := ⟨s.dp.n, a2, shlPairQ s.dp.q ||| BitVec.ofNat s.dp.n 1, s.dp.m, s.dp.negm⟩
        cnt := s.cnt + 1 }) ∧
      (a2.msb ≠ a1.msb → step s = .next { s with
        inputs := s.inputs.tail
        dp := ⟨s.dp.n, a1, shlPairQ s.dp.q, s.dp.m, s.dp.negm⟩
        cnt := s.cnt + 1 })

/-- 43_restoring_divider.md R132: the finish step of `DIVR`, with everything it leaves unchanged. -/
def Obligations.DivrFinishCorrectsTheQuotientSign : Prop :=
  ∀ s : State, s.phase = .run → s.port.rst = false → s.opr = .divr → s.cnt = s.dp.n →
    (s.sa ≠ s.sb → step s = .next { s with
      inputs := s.inputs.tail
      dp := ⟨s.dp.n, s.dp.a, negateBits s.dp.q, s.dp.m, s.dp.negm⟩
      phase := .done }) ∧
    (s.sa = s.sb → step s = .next { s with inputs := s.inputs.tail, phase := .done })

/-- The law of `DIVR` for a non-negative dividend register, both settings (43_restoring_divider.md, laws it derives, with
the remark on operands that do not fit): truncating division of the registers' values, the quotient's sign taken from the
integers as supplied. -/
def Obligations.DivrOfANonNegativeDividend : Prop :=
  ∀ (s : State) (g : Bool) (n : Nat) (a b : Int), AcceptsCleanly s (.divr g n a b) → NoReset (n + 2) s →
    0 ≤ held a n → held b n ≠ 0 → ∃ t, steps (n + 2) s = .next t ∧ t.phase = .done ∧
      dec0 t = some ((if (a < 0 ↔ b < 0) then 1 else -1) * (held a n / ((held b n).natAbs : Int))) ∧
      dec1 t = some (held a n % ((held b n).natAbs : Int))

/-- The result of `DIVR` for a negative dividend register under `DIVR_A_INIT = zero` and a divisor of at most a quarter
of the range (43_restoring_divider.md, laws it derives): the division of the unsigned reading `u`. -/
def Obligations.DivrOfANegativeDividendUnderZero : Prop :=
  ∀ (s : State) (g : Bool) (n : Nat) (a b : Int), AcceptsCleanly s (.divr g n a b) → NoReset (n + 2) s →
    s.cfg.divrAInit = .zero → 2 ≤ n → held a n < 0 → held b n ≠ 0 → (held b n).natAbs ≤ 2 ^ (n - 2) →
    ∃ t q, steps (n + 2) s = .next t ∧ t.phase = .done ∧
      q = decimalToBits ((held a n + 2 ^ n) / ((held b n).natAbs : Int)) n ∧
      (uval q : Int) = (held a n + 2 ^ n) / ((held b n).natAbs : Int) ∧
      dec0 t = some (bitsToDecimal (if (a < 0 ↔ b < 0) then q else negateBits q)) ∧
      dec1 t = some ((held a n + 2 ^ n) % ((held b n).natAbs : Int))

/-- The law of `DIVR` for a negative dividend under `DIVR_A_INIT = sign_extend` (43_restoring_divider.md, laws it
derives): `a = b * dec0 + dec1` with a negative remainder; truncating division unless the divisor divides the dividend,
where the quotient is one short. -/
def Obligations.DivrOfANegativeDividendUnderSignExtend : Prop :=
  ∀ (s : State) (g : Bool) (n : Nat) (a b : Int), AcceptsCleanly s (.divr g n a b) → NoReset (n + 2) s →
    s.cfg.divrAInit = .signExtend → fits a n = true → fits b n = true → a < 0 →
    ∃ t q r, steps (n + 2) s = .next t ∧ t.phase = .done ∧ dec0 t = some q ∧ dec1 t = some r ∧
      a = b * q + r ∧ r < 0 ∧ (q ≠ 0 → (q < 0 ↔ 0 < b)) ∧
      (¬ b ∣ a → q.natAbs = a.natAbs / b.natAbs ∧ r = -((a.natAbs % b.natAbs : Nat) : Int)) ∧
      (b ∣ a → q.natAbs = a.natAbs / b.natAbs - 1 ∧ r = -(b.natAbs : Int))

/-- A non-zero divisor whose register is zero (43_restoring_divider.md, corners it derives): the run ends with all
quotient bits set before the sign correction and the dividend register in `A`. The spec's remark gives `dec0 = 1` when
the signs differ; at run width 1 its own rules give -1, because `negateBits(1) = 1` there. -/
def Obligations.DivrByAWrappedZeroDivisor : Prop :=
  ∀ (s : State) (g : Bool) (n : Nat) (a b : Int), AcceptsCleanly s (.divr g n a b) → NoReset (n + 2) s →
    held b n = 0 → ∃ t, steps (n + 2) s = .next t ∧ t.phase = .done ∧
      dec0 t = some (if (a < 0 ↔ b < 0) ∨ n = 1 then -1 else 1) ∧ dec1 t = some (held a n)

/-! ### DIVNR (file 44) -/

/-- The start step of `DIVNR` on every non-zero divisor (44_non_restoring_divider.md, load). `R = 0` and `QM = 0` at the
start are the spec's "[from general knowledge, not in source]" (assumption 11). -/
def Obligations.DivnrStartLoadsMagnitudesAndSigns : Prop :=
  ∀ (s : State) (a b : Int), b ≠ 0 →
    ∃ t, exec (.divnr a b) s = .next t ∧
      Started .divnr [.opr, .err, .phase, .cnt, .v, .d, .nb, .r, .qm, .sa, .sb] s t ∧
      t.v = a.natAbs ∧ t.d = b.natAbs ∧ t.nb = nbits a.natAbs ∧ t.r = 0 ∧ t.qm = 0 ∧
      (t.sa = true ↔ a < 0) ∧ (t.sb = true ↔ b < 0)

/-- 44_non_restoring_divider.md R153: the cycle step of `DIVNR`, with everything it leaves unchanged. `r1` is the
remainder after the shift, `r2` after the add or subtract. -/
def Obligations.DivnrCycleAddsOrSubtracts : Prop :=
  ∀ s : State, s.phase = .run → s.port.rst = false → s.opr = .divnr → s.cnt < s.nb →
    ∃ r1 r2 : Int, r1 = 2 * s.r + ((s.v / 2 ^ (s.nb - 1 - s.cnt) % 2 : Nat) : Int) ∧
      (0 ≤ r1 → r2 = r1 - s.d) ∧ (r1 < 0 → r2 = r1 + s.d) ∧
      step s = .next { s with
        inputs := s.inputs.tail
        r := r2
        qm := 2 * s.qm + (if 0 ≤ r2 then 1 else 0)
        cnt := s.cnt + 1 }

/-- 44_non_restoring_divider.md R154: the finish step of `DIVNR`, with everything it leaves unchanged. -/
def Obligations.DivnrFinishCorrectsTheRemainder : Prop :=
  ∀ s : State, s.phase = .run → s.port.rst = false → s.opr = .divnr → s.cnt = s.nb →
    step s = .next { s with
      inputs := s.inputs.tail
      r := if s.r < 0 then s.r + s.d else s.r
      phase := .done }

/-- The law of `DIVNR` for every dividend and every non-zero divisor (44_non_restoring_divider.md, the law and the signed
identity it derives): quotient and remainder of the magnitudes, the quotient with the tracked sign, and the signed
identity. -/
def Obligations.DivnrGivesQuotientAndRemainder : Prop :=
  ∀ (s : State) (a b : Int), AcceptsCleanly s (.divnr a b) → NoReset (stepCount (.divnr a b)) s →
    ∃ t q r, steps (stepCount (.divnr a b)) s = .next t ∧ t.phase = .done ∧ dec0 t = some q ∧ dec1 t = some r ∧
      q = (if (a < 0 ↔ b < 0) then 1 else -1) * ((a.natAbs / b.natAbs : Nat) : Int) ∧
      r = ((a.natAbs % b.natAbs : Nat) : Int) ∧ 0 ≤ r ∧ r < (b.natAbs : Int) ∧
      a = b * q + (if a < 0 then -1 else 1) * r

/-- The range of the running remainder inside a cycle (44_non_restoring_divider.md, the range it derives), in every state
that meets the invariant: the shifted remainder lies in `[-2D, 2D-1]`, and the quotient so far in `CNT` bits. -/
def Obligations.DivnrRemainderStaysInRange : Prop :=
  ∀ s : State, Inv s → s.phase = .run → s.opr = .divnr → ∀ bit : Nat, bit ≤ 1 →
    -(2 * (s.d : Int)) ≤ 2 * s.r + bit ∧ 2 * s.r + bit ≤ 2 * s.d - 1 ∧
    -(s.d : Int) ≤ divnrRemainder s.r s.d bit ∧ divnrRemainder s.r s.d bit ≤ s.d - 1 ∧
    0 ≤ divnrCorrect s.r s.d ∧ divnrCorrect s.r s.d ≤ s.d - 1 ∧ s.qm < 2 ^ s.cnt

/-! ### The whole machine -/

/-- 10_state.md R40 as a frame: what a start step leaves when it answers a next state. Parameters and ports are
unchanged, and every register is either in the command's row of the table or holds no value (R38); after an error only
`PHASE` and `ERR` hold one. What the row's registers then hold comes from the command and the parameters alone: it is the
same from any two states. -/
def Obligations.StartStepWritesItsRowAndDiscardsTheRest : Prop :=
  (∀ (i : Instr) (s s' : State), s.cfg = s'.cfg →
    ∃ t t', exec i s = .next t ∧ exec i s' = .next t' ∧ t.view = t'.view) ∧
  ∀ (i : Instr) (s t : State), exec i s = .next t →
    t.cfg = s.cfg ∧ t.inputs = s.inputs ∧
    (entryCheck s.cfg i ≠ .none → HoldsExactly t [.phase, .err]) ∧
    (entryCheck s.cfg i = .none → t.opr = i.command ∧
      (i.command = .mul → HoldsExactly t [.opr, .n, .err, .phase, .cnt, .a, .q, .m, .negm, .x]) ∧
      (i.command = .divr → HoldsExactly t [.opr, .n, .err, .phase, .cnt, .a, .q, .m, .negm, .x, .sa, .sb]) ∧
      (i.command = .divnr → HoldsExactly t [.opr, .err, .phase, .cnt, .v, .d, .nb, .r, .qm, .sa, .sb]) ∧
      (i.command = .cvt ∨ i.command = .add ∨ i.command = .neg ∨ i.command = .asrp ∨ i.command = .shlp →
        HoldsExactly t [.opr, .n, .err, .phase, .a, .q, .x]))

/-- What no step of a run changes (10_state.md R20, R23, R24, R26 to R29, R32): the width, `M`, `NEGM`, the latched
command and signs, the magnitudes, `NB`, `ERR`, the parameters; and what only one command's steps change. `cfg`, `inputs`
and `fresh` are the model's own fields (assumptions 2, 3, 6), and in the states of `RUN` that no run reaches the step is
idle by the model's own reading (assumption 13). -/
def Obligations.RunStepsKeepWhatTheyDoNotWrite : Prop :=
  ∀ s t : State, s.phase = .run → s.port.rst = false → step s = .next t →
    (∃ a q, t.dp = ⟨s.dp.n, a, q, s.dp.m, s.dp.negm⟩) ∧ t.opr = s.opr ∧ t.sa = s.sa ∧ t.sb = s.sb ∧ t.v = s.v ∧
    t.d = s.d ∧ t.nb = s.nb ∧ t.err = s.err ∧ t.cfg = s.cfg ∧ t.inputs = s.inputs.tail ∧ t.fresh = s.fresh ∧
    (s.opr ≠ .mul → t.x = s.x) ∧ (s.opr ≠ .divnr → t.r = s.r ∧ t.qm = s.qm) ∧ (s.opr = .divnr → t.dp = s.dp)

/-- 10_state.md R38: no rule reads a register that holds no value. Two machines that agree on the registers that hold a
value, on the parameters and on the ports, still agree after any step, and their outputs are equal: what the other
registers contain shows nowhere. -/
def Obligations.RegistersWithoutValueAreNeverRead : Prop :=
  ∀ s s' : State, s.view = s'.view → s.cfg = s'.cfg → s.inputs = s'.inputs →
    (busy s = busy s' ∧ done s = done s' ∧ errOut s = errOut s' ∧ rx s = rx s' ∧ dec0 s = dec0 s' ∧ dec1 s = dec1 s' ∧
      (rhi s).map uval = (rhi s').map uval ∧ (rlo s).map uval = (rlo s').map uval) ∧
    ∃ t t', step s = .next t ∧ step s' = .next t' ∧ t.view = t'.view

/-- Run isolation (10_state.md R40, 20_memory.md R57, 70_reset_and_hazards.md R205): from the first accepted start on,
what the machine does and shows depends on the parameters and the ports alone, not on anything before. -/
def Obligations.ResultsDoNotDependOnThePast : Prop :=
  ∀ (s s' : State) (k : Nat), s.cfg = s'.cfg → s.inputs = s'.inputs → s.phase ≠ .run → s'.phase ≠ .run →
    s.port.rst = false → s.port.start = true → 1 ≤ k →
    ∃ t t', steps k s = .next t ∧ steps k s' = .next t' ∧ t.view = t'.view

/-- 70_reset_and_hazards.md R206: the number of steps of each command, counted from its accepted start; no earlier step
enters `DONE`; and a rejected command takes one step. -/
def Obligations.CommandsTakeTheirStepCount : Prop :=
  (∀ (s : State) (i : Instr), AcceptsCleanly s i → NoReset (stepCount i) s →
    (∃ t, steps (stepCount i) s = .next t ∧ t.phase = .done ∧ t.opr = i.command ∧ t.err = .none) ∧
    (∀ j, 1 ≤ j → j < stepCount i → ∃ u, steps j s = .next u ∧ u.phase = .run)) ∧
  (∀ (s : State) (i : Instr), Accepts s i → entryCheck s.cfg i ≠ .none → ∃ t, step s = .next t ∧ t.phase = .err) ∧
  (∀ s : State, s.port.rst = false → s.port.start = true → s.phase ≠ .run → (∀ i, decode s.port.cmd ≠ .ok i) →
    ∃ t, step s = .next t ∧ t.phase = .err)

/-- A run in progress always completes (60_exceptions.md section 3, what it derives): without a reset it is in `DONE`
after exactly `LIM - CNT + 1` more steps, and in `RUN` until then. -/
def Obligations.ARunAlwaysReachesDone : Prop :=
  ∀ (s : State) (lim : Nat), s.phase = .run → limit s = some lim → s.cnt ≤ lim → NoReset (lim - s.cnt + 1) s →
    (∃ t, steps (lim - s.cnt + 1) s = .next t ∧ t.phase = .done ∧ t.opr = s.opr ∧ t.cnt = lim ∧ t.err = s.err) ∧
    (∀ j, j ≤ lim - s.cnt → ∃ u, steps j s = .next u ∧ u.phase = .run ∧ u.cnt = s.cnt + j)

/-- The invariant holds of the state after reset, for every legal `WMAX`, both settings and every caller. In `State.reset`
`WMAX = 16` is the model's own choice (assumption 1). -/
def Obligations.InvariantHoldsAfterReset : Prop :=
  ∀ (c : Config) (is : List Inputs), 1 ≤ c.wmax → Inv (State.resetWith c is) ∧ Inv State.reset

/-- Every step keeps the invariant, from every state that meets it, under every port value: the phases, the counter
against its limit, the width, `NEGM`, the unused ExtraBit, and the whole division identity of `DIVNR`, cycle by cycle. The
identity rests on the start values `R = 0`, `QM = 0` of the spec's general knowledge (assumption 11). -/
def Obligations.EveryStepKeepsTheInvariant : Prop :=
  ∀ s t : State, Inv s → step s = .next t → Inv t
end

