-- ==== Sys2Proof/Laws/State.lean ====
section
/-!
SUPPORT. What each named update of the state leaves in each field, one lemma for each: true by definition, in the simp
set, so that no proof unfolds a record update. A field a lemma leaves out of an update that discards registers is a
free value there.
-/
namespace Sys2Proof.Machine

/-! ### sample -/

@[simp] theorem sample_phase (s : State) : (s.sample).phase = s.phase := rfl
@[simp] theorem sample_err (s : State) : (s.sample).err = s.err := rfl
@[simp] theorem sample_cfg (s : State) : (s.sample).cfg = s.cfg := rfl
@[simp] theorem sample_inputs (s : State) : (s.sample).inputs = s.inputs.tail := rfl
@[simp] theorem sample_fresh (s : State) : (s.sample).fresh = s.fresh := rfl
@[simp] theorem sample_opr (s : State) : (s.sample).opr = s.opr := rfl
@[simp] theorem sample_cnt (s : State) : (s.sample).cnt = s.cnt := rfl
@[simp] theorem sample_dp (s : State) : (s.sample).dp = s.dp := rfl
@[simp] theorem sample_x (s : State) : (s.sample).x = s.x := rfl
@[simp] theorem sample_sa (s : State) : (s.sample).sa = s.sa := rfl
@[simp] theorem sample_sb (s : State) : (s.sample).sb = s.sb := rfl
@[simp] theorem sample_v (s : State) : (s.sample).v = s.v := rfl
@[simp] theorem sample_d (s : State) : (s.sample).d = s.d := rfl
@[simp] theorem sample_nb (s : State) : (s.sample).nb = s.nb := rfl
@[simp] theorem sample_r (s : State) : (s.sample).r = s.r := rfl
@[simp] theorem sample_qm (s : State) : (s.sample).qm = s.qm := rfl

/-! ### discard -/

@[simp] theorem discard_phase (s : State) : (s.discard).phase = s.phase := rfl
@[simp] theorem discard_err (s : State) : (s.discard).err = s.err := rfl
@[simp] theorem discard_cfg (s : State) : (s.discard).cfg = s.cfg := rfl
@[simp] theorem discard_inputs (s : State) : (s.discard).inputs = s.inputs := rfl
@[simp] theorem discard_fresh (s : State) : (s.discard).fresh = s.fresh + 1 := rfl

/-! ### raise -/

@[simp] theorem raise_phase (e : ErrorCode) (s : State) : (s.raise e).phase = Phase.err := rfl
@[simp] theorem raise_err (e : ErrorCode) (s : State) : (s.raise e).err = e := rfl
@[simp] theorem raise_cfg (e : ErrorCode) (s : State) : (s.raise e).cfg = s.cfg := rfl
@[simp] theorem raise_inputs (e : ErrorCode) (s : State) : (s.raise e).inputs = s.inputs := rfl
@[simp] theorem raise_fresh (e : ErrorCode) (s : State) : (s.raise e).fresh = s.fresh + 1 := rfl

/-! ### accept -/

@[simp] theorem accept_phase (c : Command) (s : State) : (s.accept c).phase = s.phase := rfl
@[simp] theorem accept_err (c : Command) (s : State) : (s.accept c).err = ErrorCode.none := rfl
@[simp] theorem accept_cfg (c : Command) (s : State) : (s.accept c).cfg = s.cfg := rfl
@[simp] theorem accept_inputs (c : Command) (s : State) : (s.accept c).inputs = s.inputs := rfl
@[simp] theorem accept_fresh (c : Command) (s : State) : (s.accept c).fresh = s.fresh + 1 := rfl
@[simp] theorem accept_opr (c : Command) (s : State) : (s.accept c).opr = c := rfl

/-! ### resetStep -/

@[simp] theorem resetStep_phase (s : State) : (s.resetStep).phase = Phase.idle := rfl
@[simp] theorem resetStep_err (s : State) : (s.resetStep).err = ErrorCode.none := rfl
@[simp] theorem resetStep_cfg (s : State) : (s.resetStep).cfg = s.cfg := rfl
@[simp] theorem resetStep_inputs (s : State) : (s.resetStep).inputs = s.inputs := rfl
@[simp] theorem resetStep_fresh (s : State) : (s.resetStep).fresh = s.fresh + 1 := rfl
@[simp] theorem resetStep_cnt (s : State) : (s.resetStep).cnt = 0 := rfl

/-! ### complete -/

@[simp] theorem complete_phase (c : Command) (n : Nat) (a q : BitVec n) (x : Bool) (s : State) :
    (s.complete c n a q x).phase = Phase.done := rfl
@[simp] theorem complete_err (c : Command) (n : Nat) (a q : BitVec n) (x : Bool) (s : State) :
    (s.complete c n a q x).err = ErrorCode.none := rfl
@[simp] theorem complete_cfg (c : Command) (n : Nat) (a q : BitVec n) (x : Bool) (s : State) :
    (s.complete c n a q x).cfg = s.cfg := rfl
@[simp] theorem complete_inputs (c : Command) (n : Nat) (a q : BitVec n) (x : Bool) (s : State) :
    (s.complete c n a q x).inputs = s.inputs := rfl
@[simp] theorem complete_fresh (c : Command) (n : Nat) (a q : BitVec n) (x : Bool) (s : State) :
    (s.complete c n a q x).fresh = s.fresh + 1 := rfl
@[simp] theorem complete_opr (c : Command) (n : Nat) (a q : BitVec n) (x : Bool) (s : State) :
    (s.complete c n a q x).opr = c := rfl
@[simp] theorem complete_x (c : Command) (n : Nat) (a q : BitVec n) (x : Bool) (s : State) :
    (s.complete c n a q x).x = x := rfl

/-- The datapath a primitive command leaves: `M` and `NEGM` are free values (10_state.md R38, R40). -/
theorem complete_dp (c : Command) (n : Nat) (a q : BitVec n) (x : Bool) (s : State) :
    ∃ m negm : BitVec n, (s.complete c n a q x).dp = ⟨n, a, q, m, negm⟩ := ⟨_, _, rfl⟩

/-! ### loadMul -/

@[simp] theorem loadMul_phase (n : Nat) (a b : Int) (s : State) : (loadMul n a b s).phase = Phase.run := rfl
@[simp] theorem loadMul_err (n : Nat) (a b : Int) (s : State) : (loadMul n a b s).err = ErrorCode.none := rfl
@[simp] theorem loadMul_cfg (n : Nat) (a b : Int) (s : State) : (loadMul n a b s).cfg = s.cfg := rfl
@[simp] theorem loadMul_inputs (n : Nat) (a b : Int) (s : State) : (loadMul n a b s).inputs = s.inputs := rfl
@[simp] theorem loadMul_fresh (n : Nat) (a b : Int) (s : State) : (loadMul n a b s).fresh = s.fresh + 1 := rfl
@[simp] theorem loadMul_opr (n : Nat) (a b : Int) (s : State) : (loadMul n a b s).opr = Command.mul := rfl
@[simp] theorem loadMul_cnt (n : Nat) (a b : Int) (s : State) : (loadMul n a b s).cnt = 0 := rfl
@[simp] theorem loadMul_x (n : Nat) (a b : Int) (s : State) : (loadMul n a b s).x = false := rfl

/-! ### loadDivr -/

@[simp] theorem loadDivr_phase (n : Nat) (a b : Int) (s : State) : (loadDivr n a b s).phase = Phase.run := rfl
@[simp] theorem loadDivr_err (n : Nat) (a b : Int) (s : State) : (loadDivr n a b s).err = ErrorCode.none := rfl
@[simp] theorem loadDivr_cfg (n : Nat) (a b : Int) (s : State) : (loadDivr n a b s).cfg = s.cfg := rfl
@[simp] theorem loadDivr_inputs (n : Nat) (a b : Int) (s : State) : (loadDivr n a b s).inputs = s.inputs := rfl
@[simp] theorem loadDivr_fresh (n : Nat) (a b : Int) (s : State) : (loadDivr n a b s).fresh = s.fresh + 1 := rfl
@[simp] theorem loadDivr_opr (n : Nat) (a b : Int) (s : State) : (loadDivr n a b s).opr = Command.divr := rfl
@[simp] theorem loadDivr_cnt (n : Nat) (a b : Int) (s : State) : (loadDivr n a b s).cnt = 0 := rfl
@[simp] theorem loadDivr_x (n : Nat) (a b : Int) (s : State) : (loadDivr n a b s).x = false := rfl
@[simp] theorem loadDivr_sa (n : Nat) (a b : Int) (s : State) : (loadDivr n a b s).sa = isNegative a := rfl
@[simp] theorem loadDivr_sb (n : Nat) (a b : Int) (s : State) : (loadDivr n a b s).sb = isNegative b := rfl
@[simp] theorem loadMul_dp (n : Nat) (a b : Int) (s : State) :
    (loadMul n a b s).dp = ⟨n, 0, decimalToBits b n, decimalToBits a n, negateBits (decimalToBits a n)⟩ := rfl
@[simp] theorem loadDivr_dp (n : Nat) (a b : Int) (s : State) :
    (loadDivr n a b s).dp = ⟨n, divrAccumulator s.cfg.divrAInit (decimalToBits a n), decimalToBits a n,
      decimalToBits b n, negateBits (decimalToBits b n)⟩ := rfl

/-! ### loadDivnr -/

@[simp] theorem loadDivnr_phase (a b : Int) (s : State) : (loadDivnr a b s).phase = Phase.run := rfl
@[simp] theorem loadDivnr_err (a b : Int) (s : State) : (loadDivnr a b s).err = ErrorCode.none := rfl
@[simp] theorem loadDivnr_cfg (a b : Int) (s : State) : (loadDivnr a b s).cfg = s.cfg := rfl
@[simp] theorem loadDivnr_inputs (a b : Int) (s : State) : (loadDivnr a b s).inputs = s.inputs := rfl
@[simp] theorem loadDivnr_fresh (a b : Int) (s : State) : (loadDivnr a b s).fresh = s.fresh + 1 := rfl
@[simp] theorem loadDivnr_opr (a b : Int) (s : State) : (loadDivnr a b s).opr = Command.divnr := rfl
@[simp] theorem loadDivnr_cnt (a b : Int) (s : State) : (loadDivnr a b s).cnt = 0 := rfl
@[simp] theorem loadDivnr_sa (a b : Int) (s : State) : (loadDivnr a b s).sa = isNegative a := rfl
@[simp] theorem loadDivnr_sb (a b : Int) (s : State) : (loadDivnr a b s).sb = isNegative b := rfl
@[simp] theorem loadDivnr_v (a b : Int) (s : State) : (loadDivnr a b s).v = magnitude a := rfl
@[simp] theorem loadDivnr_d (a b : Int) (s : State) : (loadDivnr a b s).d = magnitude b := rfl
@[simp] theorem loadDivnr_nb (a b : Int) (s : State) : (loadDivnr a b s).nb = nbits (magnitude a) := rfl
@[simp] theorem loadDivnr_r (a b : Int) (s : State) : (loadDivnr a b s).r = 0 := rfl
@[simp] theorem loadDivnr_qm (a b : Int) (s : State) : (loadDivnr a b s).qm = 0 := rfl

/-! ### mulCycle -/

@[simp] theorem mulCycle_phase (s : State) : (mulCycle s).phase = s.phase := rfl
@[simp] theorem mulCycle_err (s : State) : (mulCycle s).err = s.err := rfl
@[simp] theorem mulCycle_cfg (s : State) : (mulCycle s).cfg = s.cfg := rfl
@[simp] theorem mulCycle_inputs (s : State) : (mulCycle s).inputs = s.inputs := rfl
@[simp] theorem mulCycle_fresh (s : State) : (mulCycle s).fresh = s.fresh := rfl
@[simp] theorem mulCycle_opr (s : State) : (mulCycle s).opr = s.opr := rfl
@[simp] theorem mulCycle_cnt (s : State) : (mulCycle s).cnt = s.cnt + 1 := rfl
@[simp] theorem mulCycle_dp (s : State) : (mulCycle s).dp = mulDatapath s.dp s.x := rfl
@[simp] theorem mulCycle_x (s : State) : (mulCycle s).x = asrPairX s.dp.q := rfl
@[simp] theorem mulCycle_sa (s : State) : (mulCycle s).sa = s.sa := rfl
@[simp] theorem mulCycle_sb (s : State) : (mulCycle s).sb = s.sb := rfl
@[simp] theorem mulCycle_v (s : State) : (mulCycle s).v = s.v := rfl
@[simp] theorem mulCycle_d (s : State) : (mulCycle s).d = s.d := rfl
@[simp] theorem mulCycle_nb (s : State) : (mulCycle s).nb = s.nb := rfl
@[simp] theorem mulCycle_r (s : State) : (mulCycle s).r = s.r := rfl
@[simp] theorem mulCycle_qm (s : State) : (mulCycle s).qm = s.qm := rfl

/-! ### mulFinish -/

@[simp] theorem mulFinish_phase (s : State) : (mulFinish s).phase = Phase.done := rfl
@[simp] theorem mulFinish_err (s : State) : (mulFinish s).err = s.err := rfl
@[simp] theorem mulFinish_cfg (s : State) : (mulFinish s).cfg = s.cfg := rfl
@[simp] theorem mulFinish_inputs (s : State) : (mulFinish s).inputs = s.inputs := rfl
@[simp] theorem mulFinish_fresh (s : State) : (mulFinish s).fresh = s.fresh := rfl
@[simp] theorem mulFinish_opr (s : State) : (mulFinish s).opr = s.opr := rfl
@[simp] theorem mulFinish_cnt (s : State) : (mulFinish s).cnt = s.cnt := rfl
@[simp] theorem mulFinish_dp (s : State) : (mulFinish s).dp = s.dp := rfl
@[simp] theorem mulFinish_x (s : State) : (mulFinish s).x = s.x := rfl
@[simp] theorem mulFinish_sa (s : State) : (mulFinish s).sa = s.sa := rfl
@[simp] theorem mulFinish_sb (s : State) : (mulFinish s).sb = s.sb := rfl
@[simp] theorem mulFinish_v (s : State) : (mulFinish s).v = s.v := rfl
@[simp] theorem mulFinish_d (s : State) : (mulFinish s).d = s.d := rfl
@[simp] theorem mulFinish_nb (s : State) : (mulFinish s).nb = s.nb := rfl
@[simp] theorem mulFinish_r (s : State) : (mulFinish s).r = s.r := rfl
@[simp] theorem mulFinish_qm (s : State) : (mulFinish s).qm = s.qm := rfl

/-! ### divrCycle -/

@[simp] theorem divrCycle_phase (s : State) : (divrCycle s).phase = s.phase := rfl
@[simp] theorem divrCycle_err (s : State) : (divrCycle s).err = s.err := rfl
@[simp] theorem divrCycle_cfg (s : State) : (divrCycle s).cfg = s.cfg := rfl
@[simp] theorem divrCycle_inputs (s : State) : (divrCycle s).inputs = s.inputs := rfl
@[simp] theorem divrCycle_fresh (s : State) : (divrCycle s).fresh = s.fresh := rfl
@[simp] theorem divrCycle_opr (s : State) : (divrCycle s).opr = s.opr := rfl
@[simp] theorem divrCycle_cnt (s : State) : (divrCycle s).cnt = s.cnt + 1 := rfl
@[simp] theorem divrCycle_dp (s : State) : (divrCycle s).dp = divrDatapath s.dp := rfl
@[simp] theorem divrCycle_x (s : State) : (divrCycle s).x = s.x := rfl
@[simp] theorem divrCycle_sa (s : State) : (divrCycle s).sa = s.sa := rfl
@[simp] theorem divrCycle_sb (s : State) : (divrCycle s).sb = s.sb := rfl
@[simp] theorem divrCycle_v (s : State) : (divrCycle s).v = s.v := rfl
@[simp] theorem divrCycle_d (s : State) : (divrCycle s).d = s.d := rfl
@[simp] theorem divrCycle_nb (s : State) : (divrCycle s).nb = s.nb := rfl
@[simp] theorem divrCycle_r (s : State) : (divrCycle s).r = s.r := rfl
@[simp] theorem divrCycle_qm (s : State) : (divrCycle s).qm = s.qm := rfl

/-! ### divrFinish -/

@[simp] theorem divrFinish_phase (s : State) : (divrFinish s).phase = Phase.done := rfl
@[simp] theorem divrFinish_err (s : State) : (divrFinish s).err = s.err := rfl
@[simp] theorem divrFinish_cfg (s : State) : (divrFinish s).cfg = s.cfg := rfl
@[simp] theorem divrFinish_inputs (s : State) : (divrFinish s).inputs = s.inputs := rfl
@[simp] theorem divrFinish_fresh (s : State) : (divrFinish s).fresh = s.fresh := rfl
@[simp] theorem divrFinish_opr (s : State) : (divrFinish s).opr = s.opr := rfl
@[simp] theorem divrFinish_cnt (s : State) : (divrFinish s).cnt = s.cnt := rfl
@[simp] theorem divrFinish_dp (s : State) : (divrFinish s).dp = divrCorrect s.dp s.sa s.sb := rfl
@[simp] theorem divrFinish_x (s : State) : (divrFinish s).x = s.x := rfl
@[simp] theorem divrFinish_sa (s : State) : (divrFinish s).sa = s.sa := rfl
@[simp] theorem divrFinish_sb (s : State) : (divrFinish s).sb = s.sb := rfl
@[simp] theorem divrFinish_v (s : State) : (divrFinish s).v = s.v := rfl
@[simp] theorem divrFinish_d (s : State) : (divrFinish s).d = s.d := rfl
@[simp] theorem divrFinish_nb (s : State) : (divrFinish s).nb = s.nb := rfl
@[simp] theorem divrFinish_r (s : State) : (divrFinish s).r = s.r := rfl
@[simp] theorem divrFinish_qm (s : State) : (divrFinish s).qm = s.qm := rfl

/-! ### divnrCycle -/

@[simp] theorem divnrCycle_phase (s : State) : (divnrCycle s).phase = s.phase := rfl
@[simp] theorem divnrCycle_err (s : State) : (divnrCycle s).err = s.err := rfl
@[simp] theorem divnrCycle_cfg (s : State) : (divnrCycle s).cfg = s.cfg := rfl
@[simp] theorem divnrCycle_inputs (s : State) : (divnrCycle s).inputs = s.inputs := rfl
@[simp] theorem divnrCycle_fresh (s : State) : (divnrCycle s).fresh = s.fresh := rfl
@[simp] theorem divnrCycle_opr (s : State) : (divnrCycle s).opr = s.opr := rfl
@[simp] theorem divnrCycle_cnt (s : State) : (divnrCycle s).cnt = s.cnt + 1 := rfl
@[simp] theorem divnrCycle_dp (s : State) : (divnrCycle s).dp = s.dp := rfl
@[simp] theorem divnrCycle_x (s : State) : (divnrCycle s).x = s.x := rfl
@[simp] theorem divnrCycle_sa (s : State) : (divnrCycle s).sa = s.sa := rfl
@[simp] theorem divnrCycle_sb (s : State) : (divnrCycle s).sb = s.sb := rfl
@[simp] theorem divnrCycle_v (s : State) : (divnrCycle s).v = s.v := rfl
@[simp] theorem divnrCycle_d (s : State) : (divnrCycle s).d = s.d := rfl
@[simp] theorem divnrCycle_nb (s : State) : (divnrCycle s).nb = s.nb := rfl
@[simp] theorem divnrCycle_r (s : State) :
    (divnrCycle s).r = divnrRemainder s.r s.d (dividendBit s.v (s.nb - 1 - s.cnt)) := rfl
@[simp] theorem divnrCycle_qm (s : State) :
    (divnrCycle s).qm = 2 * s.qm + quotientBit (divnrRemainder s.r s.d (dividendBit s.v (s.nb - 1 - s.cnt))) := rfl

/-! ### divnrFinish -/

@[simp] theorem divnrFinish_phase (s : State) : (divnrFinish s).phase = Phase.done := rfl
@[simp] theorem divnrFinish_err (s : State) : (divnrFinish s).err = s.err := rfl
@[simp] theorem divnrFinish_cfg (s : State) : (divnrFinish s).cfg = s.cfg := rfl
@[simp] theorem divnrFinish_inputs (s : State) : (divnrFinish s).inputs = s.inputs := rfl
@[simp] theorem divnrFinish_fresh (s : State) : (divnrFinish s).fresh = s.fresh := rfl
@[simp] theorem divnrFinish_opr (s : State) : (divnrFinish s).opr = s.opr := rfl
@[simp] theorem divnrFinish_cnt (s : State) : (divnrFinish s).cnt = s.cnt := rfl
@[simp] theorem divnrFinish_dp (s : State) : (divnrFinish s).dp = s.dp := rfl
@[simp] theorem divnrFinish_x (s : State) : (divnrFinish s).x = s.x := rfl
@[simp] theorem divnrFinish_sa (s : State) : (divnrFinish s).sa = s.sa := rfl
@[simp] theorem divnrFinish_sb (s : State) : (divnrFinish s).sb = s.sb := rfl
@[simp] theorem divnrFinish_v (s : State) : (divnrFinish s).v = s.v := rfl
@[simp] theorem divnrFinish_d (s : State) : (divnrFinish s).d = s.d := rfl
@[simp] theorem divnrFinish_nb (s : State) : (divnrFinish s).nb = s.nb := rfl
@[simp] theorem divnrFinish_r (s : State) : (divnrFinish s).r = divnrCorrect s.r s.d := rfl
@[simp] theorem divnrFinish_qm (s : State) : (divnrFinish s).qm = s.qm := rfl

end Sys2Proof.Machine
end

