-- ==== Sys2Proof/Laws/Ops.lean ====
section
/-!
SUPPORT. What the shared operations can do, once each: the start step, the meaning of any command, one step of the
machine, and the operations on registers in terms of the library's bit vectors.
-/
namespace Sys2Proof.Machine

/-- The load of a command's start step (30_encoding.md R76). -/
def loadOf : Instr → State → State
  | .mul _ n a b  => loadMul n a b
  | .divr _ n a b => loadDivr n a b
  | .divnr a b    => loadDivnr a b
  | .cvt n a      => loadCvt n a
  | .add n a b    => loadAdd n a b
  | .neg n a      => loadNeg n a
  | .asrp n a b   => loadAsrp n a b
  | .shlp n a b   => loadShlp n a b

/-- Everything a start step can do: the load, or the error of the entry check. -/
theorem startStep_eq (i : Instr) (load : State → State) (s : State) :
    startStep i load s =
      .next (if entryCheck s.cfg i = .none then load s else s.raise (entryCheck s.cfg i)) := by
  unfold startStep
  cases entryCheck s.cfg i <;> rfl

/-- Everything `exec` can do, for every command. -/
theorem exec_eq (i : Instr) (s : State) :
    exec i s = .next (if entryCheck s.cfg i = .none then loadOf i s else s.raise (entryCheck s.cfg i)) := by
  cases i <;> exact startStep_eq _ _ s

/-- A command whose entry check passes does its load. -/
theorem exec_of_clean {i : Instr} {s : State} (h : entryCheck s.cfg i = .none) : exec i s = .next (loadOf i s) := by
  rw [exec_eq, if_pos h]

/-- A command whose entry check fails raises its error. -/
theorem exec_of_error {i : Instr} {s : State} (h : entryCheck s.cfg i ≠ .none) :
    exec i s = .next (s.raise (entryCheck s.cfg i)) := by
  rw [exec_eq, if_neg h]

/-- Everything one step can do (10_state.md R41): it answers `t` only by one of the five kinds of step. -/
theorem step_cases {s t : State} (h : step s = .next t) :
    (s.port.rst = true ∧ t = s.sample.resetStep) ∨
    (s.port.rst = false ∧ s.phase = .run ∧ t = runStep s.sample) ∨
    (s.port.rst = false ∧ s.phase ≠ .run ∧ s.port.start = true ∧
      ∃ i, decode s.port.cmd = .ok i ∧ exec i s.sample = .next t) ∨
    (s.port.rst = false ∧ s.phase ≠ .run ∧ s.port.start = true ∧
      (∃ e, decode s.port.cmd = .error e) ∧ t = s.sample.raise .illegalCommand) ∨
    (s.port.rst = false ∧ s.phase ≠ .run ∧ s.port.start = false ∧ t = s.sample) := by
  unfold step advance stepWith acceptStart at h
  cases hr : s.port.rst <;> by_cases hp : s.phase = .run <;> cases hs : s.port.start <;>
    simp [hr, hp, hs] at h ⊢
  · exact h.symm
  · exact h.symm
  · exact h.symm
  · cases hd : decode s.port.cmd with
    | ok i => exact .inl ⟨i, rfl, by simpa [hd] using h⟩
    | error e => exact .inr ⟨⟨e, rfl⟩, by simpa [hd] using h.symm⟩
  all_goals exact h.symm

/-- Everything a step in `RUN` can do, given that a command with cycles is latched (10_state.md R41). -/
theorem runStep_of_limit {s : State} {lim : Nat} (h : limit s = some lim) :
    runStep s = if s.cnt < lim then cycleStep s else if s.cnt = lim then finishStep s else s := by
  simp [runStep, h]

/-- Everything a step in `RUN` can do (10_state.md R41): a cycle step, the finish step, or nothing. -/
theorem runStep_cases (s : State) :
    (∃ lim, limit s = some lim ∧ s.cnt < lim ∧ runStep s = cycleStep s) ∨
    (limit s = some s.cnt ∧ runStep s = finishStep s) ∨ runStep s = s := by
  unfold runStep
  cases hl : limit s with
  | none => exact .inr (.inr rfl)
  | some lim =>
    by_cases hlt : s.cnt < lim
    · exact .inl ⟨lim, rfl, hlt, by simp [hlt]⟩
    · by_cases heq : s.cnt = lim
      · exact .inr (.inl ⟨by rw [heq], by simp [heq]⟩)
      · exact .inr (.inr (by simp [hlt, heq]))

@[simp] theorem cycleStep_phase (s : State) : (cycleStep s).phase = s.phase := by unfold cycleStep; split <;> rfl
@[simp] theorem cycleStep_err (s : State) : (cycleStep s).err = s.err := by unfold cycleStep; split <;> rfl
@[simp] theorem cycleStep_cfg (s : State) : (cycleStep s).cfg = s.cfg := by unfold cycleStep; split <;> rfl
@[simp] theorem cycleStep_inputs (s : State) : (cycleStep s).inputs = s.inputs := by unfold cycleStep; split <;> rfl
@[simp] theorem cycleStep_fresh (s : State) : (cycleStep s).fresh = s.fresh := by unfold cycleStep; split <;> rfl
@[simp] theorem cycleStep_opr (s : State) : (cycleStep s).opr = s.opr := by unfold cycleStep; split <;> rfl
@[simp] theorem cycleStep_sa (s : State) : (cycleStep s).sa = s.sa := by unfold cycleStep; split <;> rfl
@[simp] theorem cycleStep_sb (s : State) : (cycleStep s).sb = s.sb := by unfold cycleStep; split <;> rfl
@[simp] theorem cycleStep_v (s : State) : (cycleStep s).v = s.v := by unfold cycleStep; split <;> rfl
@[simp] theorem cycleStep_d (s : State) : (cycleStep s).d = s.d := by unfold cycleStep; split <;> rfl
@[simp] theorem cycleStep_nb (s : State) : (cycleStep s).nb = s.nb := by unfold cycleStep; split <;> rfl
@[simp] theorem finishStep_err (s : State) : (finishStep s).err = s.err := by unfold finishStep; split <;> rfl
@[simp] theorem finishStep_cfg (s : State) : (finishStep s).cfg = s.cfg := by unfold finishStep; split <;> rfl
@[simp] theorem finishStep_inputs (s : State) : (finishStep s).inputs = s.inputs := by unfold finishStep; split <;> rfl
@[simp] theorem finishStep_fresh (s : State) : (finishStep s).fresh = s.fresh := by unfold finishStep; split <;> rfl
@[simp] theorem finishStep_opr (s : State) : (finishStep s).opr = s.opr := by unfold finishStep; split <;> rfl
@[simp] theorem finishStep_sa (s : State) : (finishStep s).sa = s.sa := by unfold finishStep; split <;> rfl
@[simp] theorem finishStep_sb (s : State) : (finishStep s).sb = s.sb := by unfold finishStep; split <;> rfl
@[simp] theorem finishStep_v (s : State) : (finishStep s).v = s.v := by unfold finishStep; split <;> rfl
@[simp] theorem finishStep_d (s : State) : (finishStep s).d = s.d := by unfold finishStep; split <;> rfl
@[simp] theorem finishStep_nb (s : State) : (finishStep s).nb = s.nb := by unfold finishStep; split <;> rfl
@[simp] theorem finishStep_cnt (s : State) : (finishStep s).cnt = s.cnt := by unfold finishStep; split <;> rfl
@[simp] theorem finishStep_x (s : State) : (finishStep s).x = s.x := by unfold finishStep; split <;> rfl
@[simp] theorem finishStep_qm (s : State) : (finishStep s).qm = s.qm := by unfold finishStep; split <;> rfl
@[simp] theorem runStep_err (s : State) : (runStep s).err = s.err := by
  rcases runStep_cases s with ⟨_, _, _, h⟩ | ⟨_, h⟩ | h <;> simp [h]
@[simp] theorem runStep_cfg (s : State) : (runStep s).cfg = s.cfg := by
  rcases runStep_cases s with ⟨_, _, _, h⟩ | ⟨_, h⟩ | h <;> simp [h]
@[simp] theorem runStep_inputs (s : State) : (runStep s).inputs = s.inputs := by
  rcases runStep_cases s with ⟨_, _, _, h⟩ | ⟨_, h⟩ | h <;> simp [h]
@[simp] theorem runStep_fresh (s : State) : (runStep s).fresh = s.fresh := by
  rcases runStep_cases s with ⟨_, _, _, h⟩ | ⟨_, h⟩ | h <;> simp [h]
@[simp] theorem runStep_opr (s : State) : (runStep s).opr = s.opr := by
  rcases runStep_cases s with ⟨_, _, _, h⟩ | ⟨_, h⟩ | h <;> simp [h]
@[simp] theorem runStep_sa (s : State) : (runStep s).sa = s.sa := by
  rcases runStep_cases s with ⟨_, _, _, h⟩ | ⟨_, h⟩ | h <;> simp [h]
@[simp] theorem runStep_sb (s : State) : (runStep s).sb = s.sb := by
  rcases runStep_cases s with ⟨_, _, _, h⟩ | ⟨_, h⟩ | h <;> simp [h]
@[simp] theorem runStep_v (s : State) : (runStep s).v = s.v := by
  rcases runStep_cases s with ⟨_, _, _, h⟩ | ⟨_, h⟩ | h <;> simp [h]
@[simp] theorem runStep_d (s : State) : (runStep s).d = s.d := by
  rcases runStep_cases s with ⟨_, _, _, h⟩ | ⟨_, h⟩ | h <;> simp [h]
@[simp] theorem runStep_nb (s : State) : (runStep s).nb = s.nb := by
  rcases runStep_cases s with ⟨_, _, _, h⟩ | ⟨_, h⟩ | h <;> simp [h]

/-- A step in `RUN` leaves `PHASE` in `RUN`, but for the finish step, which sets `DONE` (10_state.md R30). -/
theorem finishStep_phase {s : State} {lim : Nat} (h : limit s = some lim) : (finishStep s).phase = .done := by
  unfold limit at h
  unfold finishStep
  cases ho : s.opr <;> simp_all

/-! The cycle and finish step by the latched command (10_state.md R27, R41). -/

theorem cycleStep_of_mul {s : State} (h : s.opr = .mul) : cycleStep s = mulCycle s := by simp [cycleStep, h]
theorem cycleStep_of_divr {s : State} (h : s.opr = .divr) : cycleStep s = divrCycle s := by simp [cycleStep, h]
theorem cycleStep_of_divnr {s : State} (h : s.opr = .divnr) : cycleStep s = divnrCycle s := by simp [cycleStep, h]
theorem finishStep_of_mul {s : State} (h : s.opr = .mul) : finishStep s = mulFinish s := by simp [finishStep, h]
theorem finishStep_of_divr {s : State} (h : s.opr = .divr) : finishStep s = divrFinish s := by simp [finishStep, h]
theorem finishStep_of_divnr {s : State} (h : s.opr = .divnr) : finishStep s = divnrFinish s := by simp [finishStep, h]

/-- A `MUL` cycle keeps the width, `M` and `NEGM` (10_state.md R20, R23, R24). -/
theorem mulDatapath_shape (dp : Datapath) (x : Bool) :
    ∃ a q, mulDatapath dp x = ⟨dp.n, a, q, dp.m, dp.negm⟩ := ⟨_, _, rfl⟩

/-- A `DIVR` cycle keeps the width, `M` and `NEGM` (10_state.md R20, R23, R24). -/
theorem divrDatapath_shape (dp : Datapath) : ∃ a q, divrDatapath dp = ⟨dp.n, a, q, dp.m, dp.negm⟩ := by
  by_cases h : sameSign (divrTrial (shlPairA dp.a dp.q) dp.m dp.negm) (shlPairA dp.a dp.q)
  · exact ⟨_, _, if_pos h⟩
  · exact ⟨_, _, if_neg h⟩

/-- The finish of `DIVR` writes nothing of the datapath but `Q` (43_restoring_divider.md R132). -/
theorem divrCorrect_shape (dp : Datapath) (sa sb : Bool) :
    ∃ q, divrCorrect dp sa sb = ⟨dp.n, dp.a, q, dp.m, dp.negm⟩ := by
  by_cases h : (sa != sb)
  · exact ⟨_, if_pos h⟩
  · exact ⟨_, if_neg h⟩

/-- `negateBits` is negation modulo `2^w`. -/
theorem negateBits_eq_neg {w : Nat} (x : BitVec w) : negateBits x = -x := by
  unfold negateBits addBits decimalToBits
  rw [BitVec.neg_eq_not_add]
  rfl

/-- The entry check passes exactly when none of its three tests fires. -/
theorem entryCheck_eq_none_iff (c : Config) (i : Instr) :
    entryCheck c i = .none ↔ widthIllegal c i = false ∧ divisorZero i = false ∧ guardFails i = false := by
  unfold entryCheck
  cases widthIllegal c i <;> cases divisorZero i <;> cases guardFails i <;> simp

/-- The width test of the entry check is the negation of well-formedness. -/
theorem widthIllegal_eq_not_wellFormed (c : Config) (i : Instr) : widthIllegal c i = !i.WellFormed c := by
  cases i <;> simp [widthIllegal, Instr.WellFormed, widthOk] <;> grind

theorem addBits_eq_add {w : Nat} (x y : BitVec w) : addBits x y = x + y := rfl

theorem bitsToDecimal_eq_toInt {w : Nat} (x : BitVec w) : bitsToDecimal x = x.toInt := rfl

theorem decimalToBits_eq_ofInt (v : Int) (w : Nat) : decimalToBits v w = BitVec.ofInt w v := rfl

/-- The guard's range test as an arithmetic statement (40_two_complement_adder.md R98). -/
theorem fits_iff (v : Int) (w : Nat) : fits v w = true ↔ 1 ≤ w ∧ -(2 : Int) ^ (w - 1) ≤ v ∧ v ≤ 2 ^ (w - 1) - 1 := by
  simp [fits, and_assoc]

/-- `withLsb` sets bit 0 and keeps every other bit. -/
theorem withLsb_getLsbD {w : Nat} (q : BitVec w) (b : Bool) (i : Nat) (hi : i < w) :
    (withLsb q b).getLsbD i = if i = 0 then b else q.getLsbD i := by
  by_cases h : i = 0
  · subst h; cases b <;> simp [withLsb, hi]
  · cases b <;> simp [withLsb, hi, h]

end Sys2Proof.Machine
end

