-- ==== Sys2Proof/Laws/PerInstr.lean ====
section
/-!
SUPPORT. Facts about every command as syntax, one lemma for each constructor (LAWS.json names the families).
-/
namespace Sys2Proof.Laws

/-- The encoder puts on `op` the code of the command (30_encoding.md R67), and that code names no other command. -/
def CodeNamesCommand.Statement (i : Instr) : Prop :=
  (encode i).op = i.command.code ∧ commandOf (encode i).op = some i.command

theorem CodeNamesCommand.mul (g : Bool) (n : Nat) (a b : Int) : CodeNamesCommand.Statement (.mul g n a b) := ⟨rfl, rfl⟩
theorem CodeNamesCommand.divr (g : Bool) (n : Nat) (a b : Int) : CodeNamesCommand.Statement (.divr g n a b) := ⟨rfl, rfl⟩
theorem CodeNamesCommand.divnr (a b : Int) : CodeNamesCommand.Statement (.divnr a b) := ⟨rfl, rfl⟩
theorem CodeNamesCommand.cvt (n : Nat) (a : Int) : CodeNamesCommand.Statement (.cvt n a) := ⟨rfl, rfl⟩
theorem CodeNamesCommand.add (n : Nat) (a b : Int) : CodeNamesCommand.Statement (.add n a b) := ⟨rfl, rfl⟩
theorem CodeNamesCommand.neg (n : Nat) (a : Int) : CodeNamesCommand.Statement (.neg n a) := ⟨rfl, rfl⟩
theorem CodeNamesCommand.asrp (n : Nat) (a b : Int) : CodeNamesCommand.Statement (.asrp n a b) := ⟨rfl, rfl⟩
theorem CodeNamesCommand.shlp (n : Nat) (a b : Int) : CodeNamesCommand.Statement (.shlp n a b) := ⟨rfl, rfl⟩

end Sys2Proof.Laws
end

