-- ==== Sys2Proof/Tests/Slice0.lean ====
section
/-!
SUPPORT. The model's own tests, each expected value from spec/ (its place is in the comment), and the witnesses: for each
statement with hypotheses a concrete state that meets them.
-/
namespace Sys2Proof.Tests

open Sys2Proof Sys2Proof.Machine

/-- What `f` shows of the next state, if there is one. -/
def after {α : Type} (o : Host.Outcome State Fault Refusal) (f : State → α) : Option α :=
  match o with
  | .next t => some (f t)
  | .fault _ => none
  | .refused _ => none

/-- A machine after reset with `WMAX = 16`, the value of 95_test_vectors.md 2.10, and the given setting. -/
def base (init : DivrAInit) : State := State.resetWith ⟨16, init⟩ []

/-- A machine after reset to which `i` is offered. -/
def offered (init : DivrAInit) (i : Instr) : State := State.resetWith ⟨16, init⟩ [⟨false, true, encode i⟩]

/-- A machine in phase `p` of the command `c`, `k` cycles done, with the registers `dp` and `x`. -/
def within (p : Phase) (c : Command) (k : Nat) (dp : Datapath) (x : Bool) : State :=
  { base .zero with phase := p, opr := c, cnt := k, dp := dp, x := x }

/-- `DIVNR 5, 7` after `k` cycles with remainder `r` and quotient `qm` (44_non_restoring_divider.md R161). -/
def dividing (p : Phase) (k : Nat) (r : Int) (qm : Nat) : State :=
  { base .zero with phase := p, opr := .divnr, cnt := k, v := 5, d := 7, nb := 3, r := r, qm := qm }

/-- `MUL -3, 5, 5` after its first cycle (42_booth_multiplier.md R124). -/
def booth : State := within .run .mul 1 ⟨5, 0b00001, 0b10010, 0b11101, 0b00011⟩ true

/-- `DIVR -7, 3, 6` under sign_extend after its fourth cycle (43_restoring_divider.md R141). -/
def restoring : State := within .run .divr 4 ⟨6, 0b111110, 0b010000, 0b000011, 0b111101⟩ false

/-! ### Well-formedness: each check refuses an ill-formed term (60_exceptions.md R174) -/

theorem test_width_zero_is_ill_formed : (Instr.mul false 0 3 5).WellFormed ⟨16, .zero⟩ = false := by decide
theorem test_width_above_wmax_is_ill_formed : (Instr.cvt 17 1).WellFormed ⟨16, .zero⟩ = false := by decide
theorem test_width_at_wmax_is_well_formed : (Instr.cvt 16 1).WellFormed ⟨16, .zero⟩ = true := by decide
theorem test_divnr_reads_no_width : (Instr.divnr 5 3).WellFormed ⟨16, .zero⟩ = true := by decide

/-! ### Decoding: a code written out from 30_encoding.md R67 for every command, and a reserved one (R68) -/

theorem test_decode_mul : decode ⟨0b0001, true, 5, 3, -9⟩ = .ok (.mul true 5 3 (-9)) := rfl
theorem test_decode_divr : decode ⟨0b0010, false, 6, -7, 3⟩ = .ok (.divr false 6 (-7) 3) := rfl
theorem test_decode_divnr : decode ⟨0b0011, true, 9, -7, 3⟩ = .ok (.divnr (-7) 3) := rfl
theorem test_decode_cvt : decode ⟨0b1000, true, 8, 300, 1⟩ = .ok (.cvt 8 300) := rfl
theorem test_decode_add : decode ⟨0b1001, true, 5, 15, 1⟩ = .ok (.add 5 15 1) := rfl
theorem test_decode_neg : decode ⟨0b1010, true, 5, -16, 1⟩ = .ok (.neg 5 (-16)) := rfl
theorem test_decode_asrp : decode ⟨0b1100, true, 5, 29, 5⟩ = .ok (.asrp 5 29 5) := rfl
theorem test_decode_shlp : decode ⟨0b1101, true, 5, 1, 24⟩ = .ok (.shlp 5 1 24) := rfl
theorem test_decode_reserved : decode ⟨0b1011, false, 5, 1, 1⟩ = .error (.reservedOp 0b1011) := rfl

/-! ### One step of each command -/

/-- 42_booth_multiplier.md R124, `MUL -3, 5, 5`, load. -/
theorem test_mul_load :
    after (exec (.mul false 5 (-3) 5) (base .zero)) (fun t => (uval t.dp.m, uval t.dp.negm, uval t.dp.q, uval t.dp.a)) =
      some (0b11101, 0b00011, 0b00101, 0) := by decide
/-- 42_booth_multiplier.md R124, `MUL -3, 5, 5`, cycle 2: add, then shift with the sign kept. -/
theorem test_mul_cycle :
    after (step booth) (fun t => (uval t.dp.a, uval t.dp.q, t.x, t.cnt)) = some (0b11111, 0b01001, false, 2) := by decide
/-- 43_restoring_divider.md R141, `DIVR -7, 3, 6` under sign_extend, load. -/
theorem test_divr_load_sign_extend :
    after (exec (.divr false 6 (-7) 3) (base .signExtend)) (fun t => (uval t.dp.a, uval t.dp.q, t.sa, t.sb)) =
      some (0b111111, 0b111001, true, false) := by decide
/-- 43_restoring_divider.md R141, `DIVR -7, 3, 6` under sign_extend, cycle 5: add, success. -/
theorem test_divr_cycle_success :
    after (step restoring) (fun t => (uval t.dp.a, uval t.dp.q, t.cnt)) = some (0b111111, 0b100001, 5) := by decide
/-- 44_non_restoring_divider.md R161, `DIVNR 5, 7`, cycle 2: the remainder is negative, the divisor is added. -/
theorem test_divnr_cycle : after (step (dividing .run 1 (-6) 0)) (fun t => (t.r, t.qm)) = some (-5, 0) := by decide
/-- 44_non_restoring_divider.md R161, `DIVNR 5, 7`, finish: the divisor is added back once. -/
theorem test_divnr_finish : after (step (dividing .run 3 (-2) 0)) (fun t => (dec0 t, dec1 t)) = some (some 0, some 5) := by
  decide
/-- 95_test_vectors.md 2.1, `CVT 20, 5` wraps. -/
theorem test_cvt_wraps : after (exec (.cvt 5 20) (base .zero)) (fun t => (uval t.dp.q, dec0 t)) = some (0b10100, some (-12)) := by
  decide
/-- 95_test_vectors.md 2.1, `CVT 1, 1` reads back -1. -/
theorem test_cvt_width_one : after (exec (.cvt 1 1) (base .zero)) dec0 = some (some (-1)) := by decide
/-- 95_test_vectors.md 2.2, `ADD -16, -1, 5` wraps. -/
theorem test_add_wraps : after (exec (.add 5 (-16) (-1)) (base .zero)) dec0 = some (some 15) := by decide
/-- 95_test_vectors.md 2.2, `ADD -1, 1, 5`: the carry out is dropped. -/
theorem test_add_drops_carry : after (exec (.add 5 (-1) 1) (base .zero)) dec0 = some (some 0) := by decide
/-- 95_test_vectors.md 2.3, `NEG -16, 5`: the minimum is a fixed point. -/
theorem test_neg_minimum : after (exec (.neg 5 (-16)) (base .zero)) dec0 = some (some (-16)) := by decide
/-- 95_test_vectors.md 2.3, `NEG 20, 5` negates the wrapped -12. -/
theorem test_neg_of_wrapped : after (exec (.neg 5 20) (base .zero)) dec0 = some (some 12) := by decide
/-- 95_test_vectors.md 2.4, `ASRP 0b11101, 0b00101, 5`. -/
theorem test_asrp :
    after (exec (.asrp 5 0b11101 0b00101) (base .zero)) (fun t => (uval t.dp.a, uval t.dp.q, rx t, dec0 t)) =
      some (0b11110, 0b10010, some true, some (-46)) := by decide
/-- 95_test_vectors.md 2.4, `ASRP 0b1, 0b0, 1`. -/
theorem test_asrp_width_one :
    after (exec (.asrp 1 1 0) (base .zero)) (fun t => (uval t.dp.a, uval t.dp.q, rx t)) = some (1, 1, some false) := by decide
/-- 95_test_vectors.md 2.5, `SHLP 0b01000, 0b10000, 5`. -/
theorem test_shlp :
    after (exec (.shlp 5 0b01000 0b10000) (base .zero)) (fun t => (uval t.dp.a, uval t.dp.q, dec0 t)) =
      some (0b10001, 0, some (-480)) := by decide
/-- 95_test_vectors.md 2.5, `SHLP 0b1, 0b1, 1`. -/
theorem test_shlp_width_one :
    after (exec (.shlp 1 1 1) (base .zero)) (fun t => (uval t.dp.a, uval t.dp.q)) = some (1, 0) := by decide

/-! ### Errors and reset (95_test_vectors.md 2.10, P4) -/

/-- `DIVR.G 20, 0, 5`: the zero divisor comes before the guard. -/
theorem test_zero_divisor_first : after (exec (.divr true 5 20 0) (base .zero)) errOut = some 1 := by decide
/-- `DIVR.G 20, 0, 0`: the width comes first. -/
theorem test_width_first : after (exec (.divr true 0 20 0) (base .zero)) errOut = some 3 := by decide
/-- `MUL.G 0, 0, 1`: width 1 never passes the guard. -/
theorem test_guard_at_width_one : after (exec (.mul true 1 0 0) (base .zero)) errOut = some 2 := by decide
/-- `DIVNR 5, 3` with `wchk = 1`, `width = 0`: both ignored. -/
theorem test_divnr_ignores_width :
    after (step { base .zero with inputs := [⟨false, true, ⟨0b0011, true, 0, 5, 3⟩⟩] }) (fun t => (t.phase, t.nb)) =
      some (.run, 3) := by decide
/-- P4, step 13: `rst` and `start` together in a run: the reset wins. -/
theorem test_reset_wins :
    after (step { booth with inputs := [⟨true, true, encode (.cvt 5 20)⟩] }) (fun t => (t.phase, t.cnt)) = some (.idle, 0) := by
  decide
/-- P4, step 4: a start in a run is not sampled. -/
theorem test_start_in_run_ignored :
    after (step { booth with inputs := [⟨false, true, ⟨0b0010, false, 5, 9, 0⟩⟩] }) (fun t => (t.phase, errOut t, t.cnt)) =
      some (.run, 0, 2) := by decide

/-! ### Witnesses -/

theorem witness_ResetStepEndsInIdleFromAnyState : ({ booth with inputs := [⟨true, true, encode (.cvt 5 20)⟩] } : State).port.rst = true := rfl

/-- `CNT` below, at and above `LIM`; no limit; outside `RUN`. -/
theorem witness_StepFollowsTheStepTable :
    (booth.port.rst = false ∧ booth.phase = .run ∧ limit booth = some 5 ∧ booth.cnt < 5) ∧
    (limit (within .run .mul 5 booth.dp true) = some 5 ∧ (within .run .mul 5 booth.dp true).cnt = 5) ∧
    (limit (within .run .mul 6 booth.dp true) = some 5 ∧ 5 < (within .run .mul 6 booth.dp true).cnt) ∧
    (limit (within .run .cvt 0 booth.dp true) = none ∧ (within .run .cvt 0 booth.dp true).phase = .run) ∧
    ((base .zero).port.rst = false ∧ (base .zero).phase ≠ .run ∧ (base .zero).port.start = false) ∧
    (offered .zero (.cvt 5 20)).port.start = true ∧
    ({ base .zero with inputs := [⟨true, false, encode (.cvt 5 20)⟩] } : State).port.rst = true := by decide

theorem accepts_mul : AcceptsCleanly (offered .zero (.mul false 5 (-3) 5)) (.mul false 5 (-3) 5) :=
  ⟨⟨rfl, rfl, by decide, rfl⟩, by decide⟩

theorem witness_StepRunsTheDecodedCommand : Accepts (offered .zero (.mul false 5 (-3) 5)) (.mul false 5 (-3) 5) := accepts_mul.1

theorem witness_ResetStateHoldsOnlyPhaseErrCnt :
    State.reset = State.reset ∧ ∃ (c : Config) (is : List Inputs), base .signExtend = State.resetWith c is :=
  ⟨rfl, _, _, rfl⟩

/-- A table word placed after reset is the command the next step runs: `MUL` with every other port zero has width 0,
which 60_exceptions.md R175 rejects. -/
theorem test_placed_word_runs :
    after (step (State.reset.withFetchWord 8 0b0001)) (fun t => (t.phase, errOut t)) = some (.err, 3) := by decide

/-- Every clause: a reset, a cycle, a finish, an idle step, and starts that end in each of the three phases. -/
theorem witness_PhaseMovesOnlyAsTheRuleSays :
    after (step { booth with inputs := [⟨true, true, encode (.cvt 5 20)⟩] }) (·.phase) = some .idle ∧
    after (step booth) (·.phase) = some .run ∧
    after (step (within .run .mul 5 booth.dp true)) (·.phase) = some .done ∧
    after (step (base .zero)) (·.phase) = some .idle ∧
    after (step (offered .zero (.divnr 5 0))) (·.phase) = some .err ∧
    after (step (offered .zero (.divnr 5 7))) (·.phase) = some .run ∧
    after (step (offered .zero (.cvt 5 20))) (·.phase) = some .done := by decide

theorem witness_StartDuringARunIsLost :
    (within .run .mul 5 booth.dp true).phase = .run ∧
    (⟨false, true, encode (.cvt 5 1)⟩ : Inputs).rst = false ∧ Inputs.idle.rst = false ∧
    limit (within .run .mul 5 booth.dp true) = some 5 ∧ (within .run .mul 5 booth.dp true).cnt = 5 := by decide

theorem witness_ResultsStayUntilStartOrReset :
    (within .done .mul 5 booth.dp true).phase ≠ .run ∧ Quiet 7 (within .done .mul 5 booth.dp true) ∧
    InRun (within .done .mul 5 booth.dp true) ∧ (within .done .mul 5 booth.dp true).opr ≠ .divnr := by decide

/-- A `DIVNR` run after its first cycle meets the invariant. -/
theorem inv_dividing : Inv (dividing .run 1 (-6) 0) where
  wmaxPositive := by decide
  errorPhase   := by decide
  idleCount    := by decide
  running      := fun _ => ⟨3, by decide, by decide⟩
  completed    := by decide
  width        := by decide
  negated      := by decide
  extraBit     := by decide
  highHalf     := by decide
  magnitudes   := by decide
  remainder    := fun _ _ => ⟨by decide, by decide, by decide, by decide⟩
  division     := by decide

/-- A rejected command leaves a state that meets the invariant. -/
theorem inv_error : Inv { base .zero with phase := .err, err := .divisionByZero } where
  wmaxPositive := by decide
  errorPhase   := by decide
  idleCount    := by decide
  running      := by decide
  completed    := by decide
  width        := by decide
  negated      := by decide
  extraBit     := by decide
  highHalf     := by decide
  magnitudes   := by decide
  remainder    := fun h _ => absurd h (by decide)
  division     := by decide

/-- A completed primitive command, or division by `DIVR`, with `A = 0` and `X = 0`, meets the invariant. -/
theorem inv_done (c : Command) (h : c = .divr ∨ c = .cvt ∨ c = .add ∨ c = .neg ∨ c = .shlp) :
    Inv (within .done c 5 ⟨5, 0, 0b01000, 0b00011, 0b11101⟩ false) where
  wmaxPositive := show 1 ≤ 16 by decide
  errorPhase   := ⟨fun h => (nomatch h), fun h => absurd rfl h⟩
  idleCount    := fun h => nomatch h
  running      := fun h => nomatch h
  completed    := by rcases h with rfl | rfl | rfl | rfl | rfl <;> simp [limit, within]
  width        := fun _ _ => show 1 ≤ 5 ∧ 5 ≤ 16 by decide
  negated      := fun _ _ => show (0b11101 : BitVec 5) = negateBits 0b00011 by decide
  extraBit     := fun _ _ _ _ => rfl
  highHalf     := fun _ _ => rfl
  magnitudes   := by rcases h with rfl | rfl | rfl | rfl | rfl <;> decide
  remainder    := fun h => nomatch h
  division     := by rcases h with rfl | rfl | rfl | rfl | rfl <;> decide

theorem witness_StatusOutputsFollowPhaseAndErr :
    Inv { base .zero with phase := .err, err := .divisionByZero } ∧ Inv (dividing .run 1 (-6) 0) := ⟨inv_error, inv_dividing⟩

/-- Every row of the table of R35, in `RUN`, `DONE` and outside a run. -/
theorem witness_DataOutputsFollowTheTable :
    ¬ InRun (base .zero) ∧ (dividing .done 3 5 0).opr = .divnr ∧ (dividing .done 3 5 0).phase = .done ∧
    (InRun booth ∧ booth.opr ≠ .divnr ∧ booth.phase ≠ .done) ∧
    (within .done .mul 5 booth.dp true).opr = .mul ∧ (within .done .divr 5 booth.dp true).opr = .divr ∧
    (within .done .add 5 booth.dp true).opr = .add ∧
    (∀ c, c = .divr ∨ c = .cvt ∨ c = .add ∨ c = .neg ∨ c = .shlp →
      Inv (within .done c 5 ⟨5, 0, 0b01000, 0b00011, 0b11101⟩ false)) :=
  ⟨by decide, rfl, rfl, by decide, rfl, rfl, rfl, inv_done⟩

theorem witness_DecoderReadsTheFieldsOfTheTable :
    (0b1111 : OpCode) ∈ ([0b0000, 0b0100, 0b0101, 0b0110, 0b0111, 0b1011, 0b1110, 0b1111] : List OpCode) := by decide

theorem witness_DecodeInvertsEncode :
    decode ⟨0b1000, true, 8, 300, 1⟩ = .ok (.cvt 8 300) ∧ encode (.cvt 8 300) = encode (.cvt 8 300) := ⟨rfl, rfl⟩

/-- A start of each kind that the entry check tells apart: reserved, illegal width, zero divisor, guard, none. -/
theorem witness_StartReportsTheFirstErrorOfTheEntryCheck :
    ∀ p ∈ ([⟨0b0000, true, 0, 5, 0⟩, ⟨0b1000, false, 17, 1, 0⟩, ⟨0b0010, true, 5, 20, 0⟩, ⟨0b0001, true, 5, 8, 3⟩,
        ⟨0b0001, false, 16, 8, 3⟩] : List CommandPorts),
      ({ base .zero with inputs := [⟨false, true, p⟩] } : State).port.rst = false ∧
      ({ base .zero with inputs := [⟨false, true, p⟩] } : State).port.start = true ∧
      ({ base .zero with inputs := [⟨false, true, p⟩] } : State).phase ≠ .run := by decide

/-- A start with a reserved code, after reset. -/
def reserved : State := { base .zero with inputs := [⟨false, true, ⟨0b0111, false, 5, 1, 1⟩⟩] }

/-- It decodes to no command. -/
theorem reserved_is_no_command (i : Instr) : decode reserved.port.cmd ≠ .ok i := fun h => nomatch h

theorem witness_RejectedCommandLeavesOnlyItsError :
    entryCheck (base .zero).cfg (.divr true 5 20 0) ≠ .none ∧ reserved.port.rst = false ∧ reserved.port.start = true ∧
    reserved.phase ≠ .run ∧ ∀ i, decode reserved.port.cmd ≠ .ok i :=
  ⟨by decide, rfl, rfl, by decide, reserved_is_no_command⟩

theorem witness_ReservedCodeRaisesIllegalCommand :
    reserved.port.rst = false ∧ reserved.port.start = true ∧ reserved.phase ≠ .run ∧
    reserved.port.cmd.op ∈ ([0b0000, 0b0100, 0b0101, 0b0110, 0b0111, 0b1011, 0b1110, 0b1111] : List OpCode) := by decide

/-- In `ERR`: an accepted start that is clean, one that is rejected, a reset, and rest. -/
theorem witness_ErrorIsLeftByStartOrReset :
    (∀ i, decode ({ reserved with phase := .err } : State).port.cmd ≠ .ok i) ∧
    (Accepts { offered .zero (.cvt 5 20) with phase := .err } (.cvt 5 20) ∧ entryCheck ⟨16, .zero⟩ (.cvt 5 20) = .none) ∧
    Accepts { offered .zero (.divnr 5 0) with phase := .err } (.divnr 5 0) ∧
    ({ base .zero with phase := .err, inputs := [⟨true, false, encode (.cvt 5 20)⟩] } : State).port.rst = true ∧
    ({ base .zero with phase := .err } : State).port.start = false :=
  ⟨reserved_is_no_command, ⟨⟨rfl, rfl, by decide, rfl⟩, by decide⟩, ⟨rfl, rfl, by decide, rfl⟩, rfl, rfl⟩

theorem witness_ErrorsOfEachDivisionAndMultiplication :
    booth.phase = .run ∧ booth.port.rst = false ∧ (after (step booth) (·.err)).isSome = true := by decide

theorem witness_DecimalToBitsTakesTheLowBits :
    1 ≤ 5 ∧ 4 < 5 ∧ -(2 : Int) ^ (5 - 1) ≤ -16 ∧ (-16 : Int) ≤ 2 ^ (5 - 1) - 1 := by decide

theorem witness_BitsToDecimalReadsTheMsbAsSign :
    (0b10000 : BitVec 5).getLsbD (5 - 1) = true ∧ (0b01111 : BitVec 5).getLsbD (5 - 1) = false := by decide

/-- The carry of the rule exists: the recursion itself. -/
theorem witness_AddBitsIsRippleCarry :
    ∃ c : Nat → Bool, c 0 = false ∧ ∀ i, c (i + 1) =
      (((0b01111 : BitVec 5).getLsbD i && (0b00001 : BitVec 5).getLsbD i) || ((0b01111 : BitVec 5).getLsbD i && c i) ||
        ((0b00001 : BitVec 5).getLsbD i && c i)) :=
  ⟨fun k => Nat.rec false (fun i ci =>
    ((0b01111 : BitVec 5).getLsbD i && (0b00001 : BitVec 5).getLsbD i) || ((0b01111 : BitVec 5).getLsbD i && ci) ||
      ((0b00001 : BitVec 5).getLsbD i && ci)) k, rfl, fun _ => rfl⟩

theorem witness_NegateBitsNegatesAllButTheMinimum :
    bitsToDecimal (0b00011 : BitVec 5) ≠ -(2 : Int) ^ (5 - 1) ∧ bitsToDecimal (0b10000 : BitVec 5) = -(2 : Int) ^ (5 - 1) := by
  decide

theorem witness_ConversionsAndNegationRoundTrip : fits (-16) 5 = true ∧ fits 15 5 = true := by decide

theorem witness_FitsIsTheRangeWithoutWrap : fits (-1) 1 = true ∧ fits 0 1 = true ∧ fits 1 1 = false := by decide

/-- Widths and bit positions at the ends of their ranges, for the statements on pairs. -/
theorem witness_AsrPairShiftsRightKeepingTheSign : 1 ≤ 1 ∧ 0 < 1 ∧ 0 = 1 - 1 ∧ 3 < 5 ∧ 3 ≠ 5 - 1 := by decide
theorem witness_ShlPairShiftsLeftDroppingTheMsb : 1 ≤ 1 ∧ 0 < 1 ∧ 4 < 5 ∧ 4 ≠ 0 := by decide
theorem witness_PairReadsAHigh : uval (pair (0b10000 : BitVec 5) 0b00001) = 513 := by decide
theorem witness_PairShiftsHalveAndDouble : bitsToDecimal (pair (0b11101 : BitVec 5) 0b00101) = -91 := by decide
theorem witness_NbitsIsTheLeastSufficientLength : 1 ≤ 4 ∧ 8 < 2 ^ 4 ∧ nbits 8 = 4 ∧ nbits 0 = 1 ∧ (3 : Int) ≠ 0 := by decide

/-- The widths at both ends of `1..WMAX` and just outside, for the five primitive commands. -/
theorem witness_CvtConvertsItsOperand :
    1 ≤ 1 ∧ 16 ≤ (base .zero).cfg.wmax ∧ (base .zero).cfg.wmax < 17 := by decide
theorem witness_AddAddsAndWraps : 1 ≤ 1 ∧ 16 ≤ (base .zero).cfg.wmax ∧ (base .zero).cfg.wmax < 17 := by decide
theorem witness_NegNegatesAndWraps : 1 ≤ 1 ∧ 16 ≤ (base .zero).cfg.wmax ∧ (base .zero).cfg.wmax < 17 := by decide
theorem witness_AsrpShiftsThePairRight : 1 ≤ 1 ∧ 16 ≤ (base .zero).cfg.wmax ∧ (base .zero).cfg.wmax < 17 := by decide
theorem witness_ShlpShiftsThePairLeft : 1 ≤ 1 ∧ 16 ≤ (base .zero).cfg.wmax ∧ (base .zero).cfg.wmax < 17 := by decide

/-- With the guard off at width 1, and with it on at its boundary (95_test_vectors.md 2.6: `7`, `-8` at width 5). -/
theorem witness_MulStartLoadsBoothRegisters :
    (1 ≤ 1 ∧ 1 ≤ (base .zero).cfg.wmax) ∧
    (1 ≤ 5 ∧ 5 ≤ (base .zero).cfg.wmax ∧ (true = true → fits 7 (5 - 1) = true ∧ fits (-8) (5 - 1) = true)) := by decide

theorem witness_MulCycleAddsThenShifts :
    booth.phase = .run ∧ booth.port.rst = false ∧ booth.opr = .mul ∧ booth.cnt < booth.dp.n ∧
    booth.dp.q.getLsbD 0 = false ∧ booth.x = true := by decide

theorem witness_MulFinishShowsThePair :
    (within .run .mul 5 booth.dp true).phase = .run ∧ (within .run .mul 5 booth.dp true).port.rst = false ∧
    (within .run .mul 5 booth.dp true).opr = .mul ∧
    (within .run .mul 5 booth.dp true).cnt = (within .run .mul 5 booth.dp true).dp.n := by decide

theorem witness_MulGivesTheProduct :
    AcceptsCleanly (offered .zero (.mul false 5 (-3) 5)) (.mul false 5 (-3) 5) ∧
    NoReset (5 + 2) (offered .zero (.mul false 5 (-3) 5)) ∧ held (-3) 5 ≠ -(2 : Int) ^ (5 - 1) :=
  ⟨accepts_mul, by decide, by decide⟩

theorem witness_MulOfTheMostNegativeMultiplicand :
    AcceptsCleanly (offered .zero (.mul false 5 (-16) 15)) (.mul false 5 (-16) 15) ∧
    NoReset (5 + 2) (offered .zero (.mul false 5 (-16) 15)) ∧ held (-16) 5 = -(2 : Int) ^ (5 - 1) :=
  ⟨⟨⟨rfl, rfl, by decide, rfl⟩, by decide⟩, by decide, by decide⟩

theorem witness_GuardedMulIsExact :
    AcceptsCleanly (offered .zero (.mul true 5 7 (-8))) (.mul true 5 7 (-8)) ∧
    NoReset (5 + 2) (offered .zero (.mul true 5 7 (-8))) :=
  ⟨⟨⟨rfl, rfl, by decide, rfl⟩, by decide⟩, by decide⟩

theorem witness_DivrStartLoadsDividendAndDivisor :
    (1 ≤ 5 ∧ 5 ≤ (base .signExtend).cfg.wmax ∧ (3 : Int) ≠ 0 ∧ (true = true → fits (-7) (5 - 1) = true ∧ fits 3 (5 - 1) = true)) ∧
    (base .zero).cfg.divrAInit = .zero ∧ (base .signExtend).cfg.divrAInit = .signExtend := by decide

theorem witness_DivrCycleTriesAndRestores :
    restoring.phase = .run ∧ restoring.port.rst = false ∧ restoring.opr = .divr ∧ restoring.cnt < restoring.dp.n ∧
    (shlPairA restoring.dp.a restoring.dp.q).msb ≠ restoring.dp.m.msb := by decide

theorem witness_DivrFinishCorrectsTheQuotientSign :
    let s : State := { within .run .divr 5 booth.dp false with sa := true }
    s.phase = .run ∧ s.port.rst = false ∧ s.opr = .divr ∧ s.cnt = s.dp.n ∧ s.sa ≠ s.sb ∧
    (within .run .divr 5 booth.dp false).sa = (within .run .divr 5 booth.dp false).sb := by decide

theorem witness_DivrOfANonNegativeDividend :
    AcceptsCleanly (offered .zero (.divr false 5 15 (-16))) (.divr false 5 15 (-16)) ∧
    NoReset (5 + 2) (offered .zero (.divr false 5 15 (-16))) ∧ 0 ≤ held 15 5 ∧ held (-16) 5 ≠ 0 :=
  ⟨⟨⟨rfl, rfl, by decide, rfl⟩, by decide⟩, by decide, by decide, by decide⟩

theorem witness_DivrOfANegativeDividendUnderZero :
    AcceptsCleanly (offered .zero (.divr false 5 (-7) (-8))) (.divr false 5 (-7) (-8)) ∧
    NoReset (5 + 2) (offered .zero (.divr false 5 (-7) (-8))) ∧
    (offered .zero (.divr false 5 (-7) (-8))).cfg.divrAInit = .zero ∧ 2 ≤ 5 ∧ held (-7) 5 < 0 ∧ held (-8) 5 ≠ 0 ∧
    (held (-8) 5).natAbs ≤ 2 ^ (5 - 2) :=
  ⟨⟨⟨rfl, rfl, by decide, rfl⟩, by decide⟩, by decide, rfl, by decide, by decide, by decide, by decide⟩

/-- The divisor divides the dividend in the first, and does not in the second. -/
theorem witness_DivrOfANegativeDividendUnderSignExtend :
    (AcceptsCleanly (offered .signExtend (.divr false 5 (-6) 3)) (.divr false 5 (-6) 3) ∧
      NoReset (5 + 2) (offered .signExtend (.divr false 5 (-6) 3)) ∧ fits (-6) 5 = true ∧ fits 3 5 = true ∧
      (-6 : Int) < 0 ∧ (3 : Int) ∣ -6) ∧
    AcceptsCleanly (offered .signExtend (.divr false 5 (-7) 3)) (.divr false 5 (-7) 3) ∧ ¬ (3 : Int) ∣ -7 :=
  ⟨⟨⟨⟨rfl, rfl, by decide, rfl⟩, by decide⟩, by decide, by decide, by decide, by decide, by decide⟩,
    ⟨⟨rfl, rfl, by decide, rfl⟩, by decide⟩, by decide⟩

/-- At run width 5 and at run width 1, where the two clauses differ. -/
theorem witness_DivrByAWrappedZeroDivisor :
    (AcceptsCleanly (offered .zero (.divr false 5 5 (-32))) (.divr false 5 5 (-32)) ∧
      NoReset (5 + 2) (offered .zero (.divr false 5 5 (-32))) ∧ held (-32) 5 = 0) ∧
    AcceptsCleanly (offered .zero (.divr false 1 1 (-2))) (.divr false 1 1 (-2)) ∧ held (-2) 1 = 0 :=
  ⟨⟨⟨⟨rfl, rfl, by decide, rfl⟩, by decide⟩, by decide, by decide⟩, ⟨⟨rfl, rfl, by decide, rfl⟩, by decide⟩, by decide⟩

theorem witness_DivnrStartLoadsMagnitudesAndSigns : (-3 : Int) ≠ 0 := by decide

theorem witness_DivnrCycleAddsOrSubtracts :
    (dividing .run 1 (-6) 0).phase = .run ∧ (dividing .run 1 (-6) 0).port.rst = false ∧
    (dividing .run 1 (-6) 0).opr = .divnr ∧ (dividing .run 1 (-6) 0).cnt < (dividing .run 1 (-6) 0).nb := by decide

theorem witness_DivnrFinishCorrectsTheRemainder :
    (dividing .run 3 (-2) 0).phase = .run ∧ (dividing .run 3 (-2) 0).port.rst = false ∧
    (dividing .run 3 (-2) 0).opr = .divnr ∧ (dividing .run 3 (-2) 0).cnt = (dividing .run 3 (-2) 0).nb := by decide

theorem witness_DivnrGivesQuotientAndRemainder :
    AcceptsCleanly (offered .zero (.divnr (-7) 3)) (.divnr (-7) 3) ∧
    NoReset (stepCount (.divnr (-7) 3)) (offered .zero (.divnr (-7) 3)) :=
  ⟨⟨⟨rfl, rfl, by decide, rfl⟩, by decide⟩, by decide⟩

theorem witness_DivnrRemainderStaysInRange :
    Inv (dividing .run 1 (-6) 0) ∧ (dividing .run 1 (-6) 0).phase = .run ∧ (dividing .run 1 (-6) 0).opr = .divnr :=
  ⟨inv_dividing, rfl, rfl⟩

theorem witness_StartStepWritesItsRowAndDiscardsTheRest :
    (after (exec (.mul false 5 (-3) 5) (base .zero)) (·.phase)) = some .run ∧
    (after (exec (.divr false 5 7 3) (base .zero)) (·.phase)) = some .run ∧
    (after (exec (.divnr 7 3) (base .zero)) (·.phase)) = some .run ∧
    (after (exec (.cvt 5 20) (base .zero)) (·.phase)) = some .done ∧
    entryCheck (base .zero).cfg (.divnr 7 0) ≠ .none ∧ (base .zero).cfg = booth.cfg := by decide

theorem witness_RunStepsKeepWhatTheyDoNotWrite :
    booth.phase = .run ∧ booth.port.rst = false ∧ (after (step booth) (·.cnt)) = some 2 ∧
    (after (step restoring) (·.cnt)) = some 5 ∧ (after (step (dividing .run 1 (-6) 0)) (·.cnt)) = some 2 := by decide

/-- Two states that differ only in registers that hold no value. -/
theorem witness_RegistersWithoutValueAreNeverRead :
    booth.view = ({ booth with v := 99, sa := true } : State).view ∧ booth ≠ { booth with v := 99, sa := true } := by decide

theorem witness_ResultsDoNotDependOnThePast :
    let s := offered .zero (.cvt 5 20)
    let s' : State := { s with phase := .done, opr := .mul, x := true, dp := booth.dp }
    s.cfg = s'.cfg ∧ s.inputs = s'.inputs ∧ s.phase ≠ .run ∧ s'.phase ≠ .run ∧ s.port.rst = false ∧
    s.port.start = true := by decide

theorem witness_CommandsTakeTheirStepCount :
    (AcceptsCleanly (offered .zero (.mul false 5 (-3) 5)) (.mul false 5 (-3) 5) ∧
      NoReset (stepCount (.mul false 5 (-3) 5)) (offered .zero (.mul false 5 (-3) 5))) ∧
    Accepts (offered .zero (.divnr 5 0)) (.divnr 5 0) ∧ entryCheck ⟨16, .zero⟩ (.divnr 5 0) ≠ .none ∧
    reserved.phase ≠ .run ∧ ∀ i, decode reserved.port.cmd ≠ .ok i :=
  ⟨⟨accepts_mul, by decide⟩, ⟨rfl, rfl, by decide, rfl⟩, by decide, by decide, reserved_is_no_command⟩

theorem witness_ARunAlwaysReachesDone :
    booth.phase = .run ∧ limit booth = some 5 ∧ booth.cnt ≤ 5 ∧ NoReset (5 - booth.cnt + 1) booth := by decide

theorem witness_InvariantHoldsAfterReset : 1 ≤ (⟨1, .signExtend⟩ : Config).wmax := by decide

theorem witness_EveryStepKeepsTheInvariant :
    Inv (dividing .run 1 (-6) 0) ∧ (after (step (dividing .run 1 (-6) 0)) (·.phase)) = some .run :=
  ⟨inv_dividing, by decide⟩

end Sys2Proof.Tests
end

/-!
The family of 10_state.md: which registers hold a value, the status and data outputs, the start step, and the moves of
`PHASE`. First the facts about the model's definitions, one for each case, then the obligations.
-/
namespace Sys2Proof.Machine

/-! ### Which registers hold a value (10_state.md R38) -/

theorem holdsExactly_of_idle {t : State} (h : t.phase = .idle) : HoldsExactly t [.phase, .err, .cnt] :=
  fun _ => by simp [State.holds, h]

theorem holdsExactly_of_err {t : State} (h : t.phase = .err) : HoldsExactly t [.phase, .err] :=
  fun _ => by simp [State.holds, h]

theorem holdsExactly_of_inRun {t : State} (h : InRun t) : HoldsExactly t (writes t.opr) := by
  intro reg
  rcases h with h | h <;> simp [State.holds, h]

/-! ### The status outputs (10_state.md R36) -/

@[simp] theorem busy_iff (s : State) : busy s = true ↔ s.phase = .run := by simp [busy]

@[simp] theorem done_iff (s : State) : done s = true ↔ s.phase = .done := by simp [done]

theorem code_eq_zero_iff (e : ErrorCode) : e.code = 0 ↔ e = .none := by cases e <;> decide

theorem errOut_ne_zero_iff {s : State} (h : Inv s) : errOut s ≠ 0 ↔ s.phase = .err := by
  rw [h.errorPhase, errOut, Ne, code_eq_zero_iff]

/-! ### The data outputs (10_state.md R35) -/

theorem bitsShown_iff (s : State) : bitsShown s = true ↔ InRun s ∧ s.opr ≠ .divnr := by simp [bitsShown]

theorem bits_of_shown {s : State} (hr : InRun s) (ho : s.opr ≠ .divnr) :
    rhi s = some s.dp.a ∧ rlo s = some s.dp.q ∧ rx s = some s.x := by
  have h : bitsShown s = true := (bitsShown_iff s).2 ⟨hr, ho⟩
  simp [rhi, rlo, rx, h]

theorem bits_of_not_shown {s : State} (h : ¬(InRun s ∧ s.opr ≠ .divnr)) :
    rhi s = none ∧ rlo s = none ∧ rx s = none := by
  rw [← bitsShown_iff] at h
  simp [rhi, rlo, rx, h]

theorem dec_of_done {s : State} (h : s.phase = .done) :
    dec0 s = some (dec0Value s) ∧ dec1 s = some (dec1Value s) := by simp [dec0, dec1, h]

theorem dec_of_not_done {s : State} (h : s.phase ≠ .done) : dec0 s = none ∧ dec1 s = none := by
  simp [dec0, dec1, h]

theorem signedQuotient_eq (sa sb : Bool) (qm : Nat) :
    signedQuotient sa sb qm = if sa ≠ sb then -(qm : Int) else qm := by simp [signedQuotient]

/-! ### The load of a start step (30_encoding.md R76, 10_state.md R40) -/

@[simp] theorem loadOf_cfg (i : Instr) (s : State) : (loadOf i s).cfg = s.cfg := by cases i <;> rfl
@[simp] theorem loadOf_inputs (i : Instr) (s : State) : (loadOf i s).inputs = s.inputs := by cases i <;> rfl
@[simp] theorem loadOf_err (i : Instr) (s : State) : (loadOf i s).err = .none := by cases i <;> rfl
@[simp] theorem loadOf_opr (i : Instr) (s : State) : (loadOf i s).opr = i.command := by cases i <;> rfl

/-- A load enters `RUN` for a command with cycles, `DONE` for a primitive one (10_state.md R30). -/
theorem loadOf_phase_cases (i : Instr) (s : State) :
    ((loadOf i s).phase = .run ∧ (i.command = .mul ∨ i.command = .divr ∨ i.command = .divnr)) ∨
    ((loadOf i s).phase = .done ∧ (i.command = .cvt ∨ i.command = .add ∨ i.command = .neg ∨ i.command = .asrp ∨
      i.command = .shlp)) := by
  cases i with
  | mul | divr | divnr => exact .inl ⟨rfl, by simp [Instr.command]⟩
  | cvt | add | neg | asrp | shlp => exact .inr ⟨rfl, by simp [Instr.command]⟩

theorem loadOf_inRun (i : Instr) (s : State) : InRun (loadOf i s) :=
  (loadOf_phase_cases i s).imp And.left And.left

theorem loadOf_holdsExactly (i : Instr) (s : State) : HoldsExactly (loadOf i s) (writes i.command) := by
  simpa using holdsExactly_of_inRun (loadOf_inRun i s)

/-- Everything an `exec` that answers `t` has done: the load after a clean entry check, else the error's entry. -/
theorem exec_cases {i : Instr} {s t : State} (h : exec i s = .next t) :
    (entryCheck s.cfg i = .none ∧ t = loadOf i s) ∨
    (entryCheck s.cfg i ≠ .none ∧ t = s.raise (entryCheck s.cfg i)) := by
  by_cases hc : entryCheck s.cfg i = .none
  · exact .inl ⟨hc, by simpa [exec_of_clean hc] using h.symm⟩
  · exact .inr ⟨hc, by simpa [exec_of_error hc] using h.symm⟩

/-! ### The view after a start step comes from the command and the parameters (10_state.md R40) -/

/-- In `ERR` a view shows the error code and nothing else. -/
theorem view_congr_of_err {s s' : State} (h : s.phase = .err) (h' : s'.phase = .err) (he : s.err = s'.err) :
    s.view = s'.view := by
  simp [State.view, State.seen, State.holds, h, h', he]

/-- The free values in `M` and `NEGM` are not in the row of a primitive command, so no view shows them. -/
theorem complete_view_congr {c : Command} (hc : writes c = [.opr, .n, .err, .phase, .a, .q, .x]) (n : Nat)
    (a q : BitVec n) (x : Bool) (s s' : State) :
    (s.complete c n a q x).view = (s'.complete c n a q x).view := by
  simp [State.view, State.seen, State.holds, hc, State.complete]

theorem loadMul_view_congr (n : Nat) (a b : Int) (s s' : State) :
    (loadMul n a b s).view = (loadMul n a b s').view := by
  simp [State.view, State.seen, State.holds, writes]

/-- The only parameter a load reads is `DIVR_A_INIT`. -/
theorem loadDivr_view_congr (n : Nat) (a b : Int) {s s' : State} (h : s.cfg = s'.cfg) :
    (loadDivr n a b s).view = (loadDivr n a b s').view := by
  simp [State.view, State.seen, State.holds, writes, h]

theorem loadDivnr_view_congr (a b : Int) (s s' : State) :
    (loadDivnr a b s).view = (loadDivnr a b s').view := by
  simp [State.view, State.seen, State.holds, writes]

theorem loadOf_view_congr (i : Instr) {s s' : State} (h : s.cfg = s'.cfg) :
    (loadOf i s).view = (loadOf i s').view := by
  cases i with
  | mul _ n a b => exact loadMul_view_congr n a b s s'
  | divr _ n a b => exact loadDivr_view_congr n a b h
  | divnr a b => exact loadDivnr_view_congr a b s s'
  | cvt | add | neg | asrp | shlp => exact complete_view_congr rfl _ _ _ _ s s'

/-- From any two states with the same parameters a start step leaves the same view. -/
theorem exec_view_congr (i : Instr) {s s' : State} (h : s.cfg = s'.cfg) :
    ∃ t t', exec i s = .next t ∧ exec i s' = .next t' ∧ t.view = t'.view := by
  by_cases hc : entryCheck s.cfg i = .none
  · exact ⟨_, _, exec_of_clean hc, exec_of_clean (h ▸ hc), loadOf_view_congr i h⟩
  · exact ⟨_, _, exec_of_error hc, exec_of_error (h ▸ hc), view_congr_of_err rfl rfl (by simp [h])⟩

/-! ### The moves of `PHASE` (10_state.md R30) -/

@[simp] theorem limit_sample (s : State) : limit s.sample = limit s := rfl

/-- In `RUN` the phase stays, but for the finish step at `CNT = LIM`. -/
theorem runStep_phase_cases {s : State} (h : s.phase = .run) :
    (runStep s).phase = .run ∨ ((runStep s).phase = .done ∧ limit s = some s.cnt) := by
  rcases runStep_cases s with ⟨_, _, _, hc⟩ | ⟨hl, hf⟩ | hi
  · exact .inl (by rw [hc, cycleStep_phase, h])
  · exact .inr ⟨by rw [hf, finishStep_phase hl], hl⟩
  · exact .inl (by rw [hi, h])

/-- An accepted start of a command ends in `ERR`, or where the command's load goes, with the command latched. -/
theorem exec_phase_cases {i : Instr} {s t : State} (h : exec i s = .next t) :
    t.phase = .err ∨ (t.phase = .run ∧ (t.opr = .mul ∨ t.opr = .divr ∨ t.opr = .divnr)) ∨
    (t.phase = .done ∧ (t.opr = .cvt ∨ t.opr = .add ∨ t.opr = .neg ∨ t.opr = .asrp ∨ t.opr = .shlp)) := by
  rcases exec_cases h with ⟨-, rfl⟩ | ⟨-, rfl⟩
  · exact .inr (by simpa using loadOf_phase_cases i s)
  · exact .inl rfl

/-! ### The obligations -/

/-- Settles O5: each of the five kinds of step moves `PHASE` as its own lemma says. -/
theorem phaseMovesOnlyAsTheRuleSays : Obligations.PhaseMovesOnlyAsTheRuleSays := by
  intro s t h
  rcases step_cases h with ⟨hr, rfl⟩ | ⟨hr, hp, rfl⟩ | ⟨hr, hp, hs, i, -, hi⟩ | ⟨hr, hp, hs, -, rfl⟩ |
    ⟨hr, hp, hs, rfl⟩
  case inl => simp [hr]
  case inr.inl => simpa [hr, hp] using runStep_phase_cases (s := s.sample) hp
  case inr.inr.inl => simpa [hr, hp, hs] using exec_phase_cases hi
  case inr.inr.inr.inl => simp [hr, hp, hs]
  case inr.inr.inr.inr => simp [hr, hp, hs]

/-- Settles O53: a clean start step is the command's load, which writes its row; a rejected one raises its error. -/
theorem startStepWritesItsRowAndDiscardsTheRest : Obligations.StartStepWritesItsRowAndDiscardsTheRest := by
  refine ⟨fun i _ _ => exec_view_congr i, fun i s t h => ?_⟩
  rcases exec_cases h with ⟨hc, rfl⟩ | ⟨hc, rfl⟩
  · have hw := loadOf_holdsExactly i s
    refine ⟨loadOf_cfg i s, loadOf_inputs i s, absurd hc, fun _ => ⟨loadOf_opr i s, ?_, ?_, ?_, ?_⟩⟩
    · exact fun hi => by simpa [hi, writes] using hw
    · exact fun hi => by simpa [hi, writes] using hw
    · exact fun hi => by simpa [hi, writes] using hw
    · rintro (hi | hi | hi | hi | hi) <;> simpa [hi, writes] using hw
  · exact ⟨rfl, rfl, fun _ => holdsExactly_of_err rfl, fun hn => absurd hn hc⟩

/-- Settles O1: `State.reset` is `State.resetWith` of the default parameters, and every reset state is in `IDLE`. -/
theorem resetStateHoldsOnlyPhaseErrCnt : Obligations.ResetStateHoldsOnlyPhaseErrCnt := by
  intro t ht
  obtain ⟨c, is, rfl⟩ : ∃ c is, t = State.resetWith c is := ht.elim (fun h => ⟨_, _, h⟩) id
  have hrun : ¬InRun (State.resetWith c is) := by rintro (h | h) <;> cases h
  obtain ⟨hrhi, hrlo, hrx⟩ := bits_of_not_shown fun h => hrun h.1
  obtain ⟨hdec0, hdec1⟩ := dec_of_not_done fun h => hrun (.inr h)
  exact ⟨rfl, rfl, rfl, rfl, rfl, rfl, hrhi, hrlo, hrx, hdec0, hdec1, holdsExactly_of_idle rfl⟩

/-- Settles O8, by the rule of each status output. -/
theorem statusOutputsFollowPhaseAndErr : Obligations.StatusOutputsFollowPhaseAndErr :=
  ⟨fun s => ⟨busy_iff s, done_iff s, rfl, errOut_ne_zero_iff⟩, rfl, rfl, rfl, rfl, fun _ _ => ⟨rfl, rfl, rfl⟩⟩

/-- Settles O9: the rows of the table by the latched command; the remarks "always 0" from the invariant's fields. -/
theorem dataOutputsFollowTheTable : Obligations.DataOutputsFollowTheTable := by
  intro s
  refine ⟨fun h => bits_of_not_shown fun hs => h hs.1, fun h => bits_of_not_shown fun hs => hs.2 h, bits_of_shown,
    dec_of_not_done, ?pairRows, ?divrRow, ?divnrRow, ?adderRows, ?extraBit, ?highHalf⟩
  case pairRows =>
    intro hd ho
    rcases ho with ho | ho | ho <;> simpa [dec0Value, dec1Value, ho] using dec_of_done hd
  case divrRow =>
    intro hd ho
    simpa [dec0Value, dec1Value, ho] using dec_of_done hd
  case divnrRow =>
    intro hd ho
    simpa [dec0Value, dec1Value, ho, signedQuotient_eq] using dec_of_done hd
  case adderRows =>
    intro hd ho
    rcases ho with ho | ho | ho <;> simpa [dec0Value, dec1Value, ho] using dec_of_done hd
  case extraBit =>
    intro hi hr ho
    have hx : s.x = false := by
      rcases ho with ho | ho | ho | ho | ho <;> exact hi.extraBit hr (by simp [ho]) (by simp [ho]) (by simp [ho])
    obtain ⟨-, -, hrx⟩ := bits_of_shown hr (by rcases ho with ho | ho | ho | ho | ho <;> simp [ho])
    rw [hrx, hx]
  case highHalf =>
    intro hi hr ho
    obtain ⟨hrhi, -, -⟩ := bits_of_shown hr (by rcases ho with ho | ho | ho <;> simp [ho])
    rw [hrhi, hi.highHalf hr ho]

end Sys2Proof.Machine

/-!
The family of 20_memory.md: the pair `{A, Q}` as a value and bit by bit, then the obligation.
-/
namespace Sys2Proof.Machine

/-! ### The pair `{A, Q}` (20_memory.md R53) -/

/-- `A` counts units of `2^w`: the shift left leaves `w` zero bits, and `Q` fills them without a carry. -/
theorem uval_pair {w : Nat} (a q : BitVec w) : uval (pair a q) = uval a * 2 ^ w + uval q :=
  calc uval (pair a q) = uval a <<< w ||| uval q := BitVec.toNat_append a q
    _ = uval a <<< w + uval q := (Nat.shiftLeft_add_eq_or_of_lt q.isLt _).symm
    _ = uval a * 2 ^ w + uval q := by rw [Nat.shiftLeft_eq]

theorem getLsbD_pair_of_lt {w i : Nat} (a q : BitVec w) (h : i < w) :
    (pair a q).getLsbD i = q.getLsbD i := by
  simp [pair, BitVec.getLsbD_append, h]

theorem getLsbD_pair_add {w : Nat} (a q : BitVec w) (i : Nat) :
    (pair a q).getLsbD (w + i) = a.getLsbD i := by
  simp [pair, BitVec.getLsbD_append]

/-! ### The obligation -/

/-- Settles O25: bit `2w-1` of the pair is bit `w-1` of its high half, and bit 0 lies in its low half. -/
theorem pairReadsAHigh : Obligations.PairReadsAHigh := by
  intro w a q hw
  have hsign : 2 * w - 1 = w + (w - 1) := by omega
  exact ⟨uval_pair a q, hsign ▸ getLsbD_pair_add a q (w - 1), getLsbD_pair_of_lt a q hw⟩

end Sys2Proof.Machine

/-!
The family of 30_encoding.md: which codes are commands and what the decoder answers for each, the step that accepts a
start, then the obligations.
-/
namespace Sys2Proof

/-! ### The codes of the command table (30_encoding.md R67, R68) -/

/-- No earlier row of the table has the code of `c`. -/
@[simp] theorem commandOf_code (c : Command) : commandOf c.code = some c := by cases c <;> rfl

/-- Of the sixteen codes, the eight reserved ones are those without a row. -/
theorem commandOf_eq_none_iff (op : OpCode) :
    commandOf op = none ↔
      op ∈ ([0b0000, 0b0100, 0b0101, 0b0110, 0b0111, 0b1011, 0b1110, 0b1111] : List OpCode) := by
  revert op
  decide

/-! ### The decoder (30_encoding.md R69, R73) -/

theorem decode_of_code {p : CommandPorts} {c : Command} (h : p.op = c.code) : decode p = .ok (c.fields p) := by
  simp [decode, h]

theorem decode_of_reserved {p : CommandPorts}
    (h : p.op ∈ ([0b0000, 0b0100, 0b0101, 0b0110, 0b0111, 0b1011, 0b1110, 0b1111] : List OpCode)) :
    decode p = .error (.reservedOp p.op) := by
  simp [decode, (commandOf_eq_none_iff p.op).2 h]

end Sys2Proof

namespace Sys2Proof.Machine

/-! ### The step that accepts a start (30_encoding.md R76) -/

theorem step_of_start {s : State} (hr : s.port.rst = false) (hs : s.port.start = true) (hp : s.phase ≠ .run) :
    step s = acceptStart s.port.cmd s.sample := by
  simp [step, advance, stepWith, hr, hs, hp]

theorem acceptStart_of_error {p : CommandPorts} {e : DecodeError} (h : decode p = .error e) (s : State) :
    acceptStart p s = .next (s.raise .illegalCommand) := by
  simp [acceptStart, h]

/-! ### The obligations -/

/-- Settles O10: each code of the table is the code of its row's command, and the row names the fields. -/
theorem decoderReadsTheFieldsOfTheTable : Obligations.DecoderReadsTheFieldsOfTheTable := by
  intro g n a b
  exact ⟨decode_of_code (c := .mul) rfl, decode_of_code (c := .divr) rfl, decode_of_code (c := .divnr) rfl,
    decode_of_code (c := .cvt) rfl, decode_of_code (c := .add) rfl, decode_of_code (c := .neg) rfl,
    decode_of_code (c := .asrp) rfl, decode_of_code (c := .shlp) rfl, fun _ hop => decode_of_reserved hop⟩

/-- Settles O16: the decoder's error makes the accepted start raise `IllegalCommand`, and in `ERR` only `PHASE` and
`ERR` hold values. -/
theorem reservedCodeRaisesIllegalCommand : Obligations.ReservedCodeRaisesIllegalCommand := by
  intro s hr hs hp hop
  have hstep : step s = .next (s.sample.raise .illegalCommand) := by
    rw [step_of_start hr hs hp, acceptStart_of_error (decode_of_reserved hop)]
  exact ⟨_, hstep, rfl, rfl, holdsExactly_of_err rfl⟩

end Sys2Proof.Machine

/-!
The family of 40_two_complement_adder.md: the functions between integers and registers, ripple-carry addition,
negation, what the start step of a primitive command leaves, then the obligations.
-/
namespace Sys2Proof.Machine

/-! ### From an integer to a register (40_two_complement_adder.md R90) -/

theorem uval_decimalToBits (v : Int) (w : Nat) : (uval (decimalToBits v w) : Int) = v % 2 ^ w := by
  have hpow : (2 : Int) ^ w ≠ 0 := by positivity
  simpa [uval, decimalToBits] using Int.emod_nonneg v hpow

/-- Bit `i` below `w` survives the reduction modulo `2^w`: what the reduction takes away is an even multiple of `2^i`. -/
theorem emod_two_pow_ediv_emod_two (v : Int) {i w : Nat} (h : i < w) : v % 2 ^ w / 2 ^ i % 2 = v / 2 ^ i % 2 := by
  have hsplit : (2 : Int) ^ w = 2 ^ i * (2 * 2 ^ (w - i - 1)) := by
    rw [← pow_succ', ← pow_add]
    congr 1
    omega
  have hdiv : v / 2 ^ i = v % 2 ^ w / 2 ^ i + 2 * 2 ^ (w - i - 1) * (v / 2 ^ w) := by
    conv_lhs => rw [← Int.emod_add_mul_ediv v (2 ^ w), hsplit, mul_assoc (2 ^ i), ← hsplit]
    exact Int.add_mul_ediv_left _ _ (by positivity)
  rw [hdiv, mul_assoc, Int.add_mul_emod_self_left]

theorem decimalToBits_getLsbD (v : Int) {i w : Nat} (h : i < w) :
    (decimalToBits v w).getLsbD i = true ↔ v / 2 ^ i % 2 = 1 := by
  have hbit : (decimalToBits v w).getLsbD i = true ↔ uval (decimalToBits v w) / 2 ^ i % 2 = 1 := by
    rw [← BitVec.testBit_toNat, Nat.testBit_eq_decide_div_mod_eq, decide_eq_true_iff, uval]
  rw [hbit, ← emod_two_pow_ediv_emod_two v h, ← uval_decimalToBits]
  norm_cast

/-! ### The signed range (40_two_complement_adder.md R91, R98) -/

/-- An integer is read back unchanged exactly when it lies in the signed range of the register. -/
theorem held_eq_self_iff (v : Int) {w : Nat} (hw : 1 ≤ w) :
    held v w = v ↔ -(2 : Int) ^ (w - 1) ≤ v ∧ v ≤ 2 ^ (w - 1) - 1 := by
  constructor
  · intro h
    rw [← h]
    exact ⟨BitVec.le_toInt _, BitVec.toInt_le⟩
  · rintro ⟨hlow, hhigh⟩
    exact BitVec.toInt_ofInt_eq_self hw hlow (Int.lt_of_le_sub_one hhigh)

theorem bitsToDecimal_eq_ite_msb {w : Nat} (r : BitVec w) :
    bitsToDecimal r = if r.getLsbD (w - 1) = true then (uval r : Int) - 2 ^ w else uval r := by
  rw [bitsToDecimal, BitVec.toInt_eq_msb_cond, BitVec.msb_eq_getLsbD_last, uval]
  norm_cast

theorem bitsToDecimal_eq_min_iff {w : Nat} (hw : 1 ≤ w) (x : BitVec w) :
    bitsToDecimal x = -(2 : Int) ^ (w - 1) ↔ x = BitVec.intMin w := by
  rw [← BitVec.toInt_inj, BitVec.toInt_intMin_of_pos hw, bitsToDecimal]

/-! ### Ripple-carry addition (40_two_complement_adder.md R92) -/

/-- The two carry equations of the rule have one solution, the carry of the library's adder. -/
theorem carry_unique {w : Nat} (x y : BitVec w) {c : Nat → Bool} (hzero : c 0 = false)
    (hsucc : ∀ i, c (i + 1) = ((x.getLsbD i && y.getLsbD i) || (x.getLsbD i && c i) || (y.getLsbD i && c i)))
    (i : Nat) : c i = BitVec.carry i x y false := by
  induction i with
  | zero => rw [hzero, BitVec.carry_zero]
  | succ i ih => rw [hsucc, BitVec.carry_succ, ih]

theorem addBits_decimalToBits (a b : Int) (n : Nat) :
    addBits (decimalToBits a n) (decimalToBits b n) = decimalToBits (a + b) n :=
  (BitVec.ofInt_add a b).symm

/-! ### Negation (40_two_complement_adder.md R93) -/

theorem uval_negateBits {w : Nat} (x : BitVec w) : uval (negateBits x) = (2 ^ w - uval x) % 2 ^ w := by
  rw [negateBits_eq_neg]
  exact BitVec.toNat_neg x

theorem bitsToDecimal_negateBits {w : Nat} {x : BitVec w} (h : x ≠ BitVec.intMin w) :
    bitsToDecimal (negateBits x) = -bitsToDecimal x := by
  rw [negateBits_eq_neg]
  exact BitVec.toInt_neg_of_ne_intMin h

theorem negateBits_intMin (w : Nat) : negateBits (BitVec.intMin w) = BitVec.intMin w := by
  rw [negateBits_eq_neg, BitVec.neg_intMin]

theorem negateBits_zero (w : Nat) : negateBits (0 : BitVec w) = 0 := by
  rw [negateBits_eq_neg]
  exact BitVec.neg_zero w

theorem negateBits_decimalToBits (a : Int) (n : Nat) : negateBits (decimalToBits a n) = decimalToBits (-a) n := by
  rw [negateBits_eq_neg]
  exact BitVec.ofInt_neg.symm

/-! ### The start step of a command that reads the run width (60_exceptions.md R174) -/

theorem widthOk_iff (c : Config) (n : Nat) : widthOk c n = true ↔ 1 ≤ n ∧ n ≤ c.wmax := by simp [widthOk]

/-- On a legal width a command that divides by nothing and has no guard to fail does its load. -/
theorem exec_of_width_legal {i : Instr} {s : State} {n : Nat} (hw : i.WellFormed s.cfg = widthOk s.cfg n)
    (hd : divisorZero i = false) (hg : guardFails i = false) (h1 : 1 ≤ n) (hmax : n ≤ s.cfg.wmax) :
    exec i s = .next (loadOf i s) := by
  have hok : i.WellFormed s.cfg = true := by rw [hw, widthOk_iff]; exact ⟨h1, hmax⟩
  exact exec_of_clean ((entryCheck_eq_none_iff _ _).2 ⟨by simp [widthIllegal_eq_not_wellFormed, hok], hd, hg⟩)

/-- The width test is the first of the entry check, so nothing else can be reported. -/
theorem exec_of_width_illegal {i : Instr} {s : State} {n : Nat} (hw : i.WellFormed s.cfg = widthOk s.cfg n)
    (h : n = 0 ∨ s.cfg.wmax < n) : exec i s = .next (s.raise .illegalCommand) := by
  have hnot : i.WellFormed s.cfg = false := by
    rw [hw, Bool.eq_false_iff, Ne, widthOk_iff]
    omega
  have he : entryCheck s.cfg i = .illegalCommand := by simp [entryCheck, widthIllegal_eq_not_wellFormed, hnot]
  rw [exec_of_error (by simp [he]), he]

/-! ### The end of a primitive command (10_state.md R35, R40) -/

/-- The commands with the row of a primitive one are the five primitive ones, for which `dec1` shows 0. -/
theorem dec1Value_of_writes {s : State} (h : writes s.opr = [.opr, .n, .err, .phase, .a, .q, .x]) :
    dec1Value s = 0 := by
  unfold dec1Value
  cases ho : s.opr with
  | divr | divnr => simp [ho, writes] at h
  | mul | cvt | add | neg | asrp | shlp => rfl

theorem completed_complete {c : Command} (hc : writes c = [.opr, .n, .err, .phase, .a, .q, .x]) (n : Nat)
    (a q : BitVec n) (x : Bool) (s : State) : Completed c n a q x s (s.complete c n a q x) := by
  have hdone : (s.complete c n a q x).phase = .done := rfl
  have hdivnr : c ≠ .divnr := by
    rintro rfl
    simp [writes] at hc
  obtain ⟨hrhi, hrlo, hrx⟩ := bits_of_shown (.inr hdone) hdivnr
  obtain ⟨-, hdec1⟩ := dec_of_done hdone
  exact
    { phase := rfl, err := rfl, opr := rfl, dp := complete_dp c n a q x s, x := rfl
      rhi := hrhi, rlo := hrlo, rx := hrx
      dec1 := by rw [hdec1, dec1Value_of_writes hc]
      holds := by simpa [hc] using holdsExactly_of_inRun (.inr hdone)
      cfg := rfl, inputs := rfl }

/-- `dec0` of the commands of the adder reads `Q` alone. -/
theorem dec0_complete {c : Command} (hc : c = .cvt ∨ c = .add ∨ c = .neg) (n : Nat) (a q : BitVec n) (x : Bool)
    (s : State) : dec0 (s.complete c n a q x) = some (bitsToDecimal q) := by
  rcases hc with rfl | rfl | rfl <;> rfl

/-! ### The obligations -/

/-- Settles O19, by the value of the image, its bits, and the range that is read back. -/
theorem decimalToBitsTakesTheLowBits : Obligations.DecimalToBitsTakesTheLowBits := fun v w hw =>
  ⟨uval_decimalToBits v w, fun _ => decimalToBits_getLsbD v, fun hlow hhigh => (held_eq_self_iff v hw).2 ⟨hlow, hhigh⟩⟩

/-- Settles O20; the equation holds at width 0 too. -/
theorem bitsToDecimalReadsTheMsbAsSign : Obligations.BitsToDecimalReadsTheMsbAsSign :=
  fun _ r _ => bitsToDecimal_eq_ite_msb r

/-- Settles O21: the rule's carry is the library's, whose adder is bitwise `x xor y xor carry`. -/
theorem addBitsIsRippleCarry : Obligations.AddBitsIsRippleCarry := by
  intro w x y
  refine ⟨fun c hzero hsucc i hi => ?_, BitVec.toNat_add x y, BitVec.toInt_add x y⟩
  rw [carry_unique x y hzero hsucc i]
  exact BitVec.getLsbD_add hi x y

/-- Settles O22: the minimum value is `intMin`, where the library's negation has its fixed point. -/
theorem negateBitsNegatesAllButTheMinimum : Obligations.NegateBitsNegatesAllButTheMinimum := by
  intro w x hw
  rw [Ne, bitsToDecimal_eq_min_iff hw]
  refine ⟨rfl, uval_negateBits x, bitsToDecimal_negateBits, ?_, negateBits_zero w⟩
  rintro rfl
  exact negateBits_intMin w

/-- Settles O24: both readings of `fits` are the signed range. -/
theorem fitsIsTheRangeWithoutWrap : Obligations.FitsIsTheRangeWithoutWrap := by
  intro v
  refine ⟨by simp [fits], fun w hw => ?_⟩
  rw [held_eq_self_iff v hw, and_self, fits_iff]
  exact and_iff_right hw

/-- Settles O30: on a legal width the load completes the command, on any other the width test fires. -/
theorem cvtConvertsItsOperand : Obligations.CvtConvertsItsOperand := fun _ _ _ =>
  ⟨fun h1 hmax => ⟨_, exec_of_width_legal rfl rfl rfl h1 hmax, completed_complete rfl _ _ _ _ _,
      dec0_complete (.inl rfl) _ _ _ _ _⟩,
    fun h => ⟨_, exec_of_width_illegal rfl h, rfl, rfl⟩, rfl⟩

/-- Settles O31: as for `CVT`, and the sum of the images is the image of the sum. -/
theorem addAddsAndWraps : Obligations.AddAddsAndWraps := by
  intro s n a b
  refine ⟨fun h1 hmax => ?_, fun h => ⟨_, exec_of_width_illegal rfl h, rfl, rfl⟩, rfl⟩
  have hdec0 := dec0_complete (.inr (.inl rfl)) n 0 (addBits (decimalToBits a n) (decimalToBits b n)) false s
  refine ⟨_, exec_of_width_legal rfl rfl rfl h1 hmax, completed_complete rfl _ _ _ _ _, hdec0, hdec0.trans ?_⟩
  rw [addBits_decimalToBits, held]

/-- Settles O32: as for `CVT`, and the negated image is the image of the negation. -/
theorem negNegatesAndWraps : Obligations.NegNegatesAndWraps := by
  intro s n a
  refine ⟨fun h1 hmax => ?_, fun h => ⟨_, exec_of_width_illegal rfl h, rfl, rfl⟩, rfl⟩
  have hdec0 := dec0_complete (.inr (.inr rfl)) n 0 (negateBits (decimalToBits a n)) false s
  refine ⟨_, exec_of_width_legal rfl rfl rfl h1 hmax, completed_complete rfl _ _ _ _ _, hdec0, hdec0.trans ?_⟩
  rw [negateBits_decimalToBits, held]

end Sys2Proof.Machine

/-!
The family of 41_shift_pair_unit.md: the two pair shifts bit by bit, what `dec0` shows of a shifted pair, then the
obligations.
-/
namespace Sys2Proof.Machine

/-! ### The shift right (41_shift_pair_unit.md R105) -/

/-- Bit `i` of the new `Q` is bit `1 + i` of the pair, which lies in `A` only for the top bit. -/
theorem asrPairQ_getLsbD {w i : Nat} (a q : BitVec w) (hi : i < w) :
    (asrPairQ a q).getLsbD i = if i = w - 1 then a.getLsbD 0 else q.getLsbD (i + 1) := by
  have hpair : (asrPairQ a q).getLsbD i = (pair a q).getLsbD (i + 1) := by
    simp [asrPairQ, hi, Nat.add_comm]
  rw [hpair]
  split
  next htop =>
    have hbit : i + 1 = w + 0 := by omega
    rw [hbit, getLsbD_pair_add]
  next hlow => exact getLsbD_pair_of_lt a q (by omega)

/-- The new top bit of `A` lies above the old ones, so it is the sign. -/
theorem asrPairA_getLsbD {w i : Nat} (a : BitVec w) (hi : i < w) :
    (asrPairA a).getLsbD i = if i = w - 1 then a.getLsbD (w - 1) else a.getLsbD (i + 1) := by
  rw [asrPairA, BitVec.getLsbD_sshiftRight, BitVec.msb_eq_getLsbD_last]
  by_cases htop : i = w - 1
  · have hout : ¬ 1 + i < w := by omega
    rw [if_neg hout, if_pos htop]
    simp [hi]
  · have hin : 1 + i < w := by omega
    rw [if_pos hin, if_neg htop]
    simp [hi, Nat.add_comm]

/-! ### The shift left (41_shift_pair_unit.md R106) -/

/-- Bit `i` of the new `A` is bit `w - 1 + i` of the pair, which lies in `Q` only for bit 0. -/
theorem shlPairA_getLsbD {w i : Nat} (a q : BitVec w) (hi : i < w) :
    (shlPairA a q).getLsbD i = if i = 0 then q.getLsbD (w - 1) else a.getLsbD (i - 1) := by
  have hpair : (shlPairA a q).getLsbD i = (pair a q).getLsbD (w - 1 + i) := by
    simp [shlPairA, hi]
  rw [hpair]
  split
  next hzero => rw [hzero]; exact getLsbD_pair_of_lt a q (by omega)
  next hpos =>
    have hbit : w - 1 + i = w + (i - 1) := by omega
    rw [hbit, getLsbD_pair_add]

theorem shlPairQ_getLsbD {w i : Nat} (q : BitVec w) (hi : i < w) :
    (shlPairQ q).getLsbD i = if i = 0 then false else q.getLsbD (i - 1) := by
  rw [shlPairQ, BitVec.getLsbD_shiftLeft]
  split
  next hzero => simp [hzero]
  next hpos => simp [hi, hpos]

/-! ### The decimal output of a shifted pair (10_state.md R35) -/

/-- `dec0` of the two shift commands reads the whole pair. -/
theorem dec0_complete_pair {c : Command} (hc : c = .asrp ∨ c = .shlp) (n : Nat) (a q : BitVec n) (x : Bool)
    (s : State) : dec0 (s.complete c n a q x) = some (bitsToDecimal (pair a q)) := by
  rcases hc with rfl | rfl <;> rfl

/-! ### The obligations -/

/-- Settles O26, by the bits of `Q` and of `A`; `X` takes the old `Q[0]` by definition. -/
theorem asrPairShiftsRightKeepingTheSign : Obligations.AsrPairShiftsRightKeepingTheSign := fun _ a q _ =>
  ⟨rfl, fun _ => asrPairQ_getLsbD a q, fun _ => asrPairA_getLsbD a⟩

/-- Settles O27, by the bits of `A` and of `Q`. -/
theorem shlPairShiftsLeftDroppingTheMsb : Obligations.ShlPairShiftsLeftDroppingTheMsb := fun _ a q _ =>
  ⟨fun _ => shlPairA_getLsbD a q, fun _ => shlPairQ_getLsbD q⟩

/-- Settles O33: on a legal width the load completes the command, on any other the width test fires. -/
theorem asrpShiftsThePairRight : Obligations.AsrpShiftsThePairRight := fun _ _ _ _ =>
  ⟨fun h1 hmax => ⟨_, exec_of_width_legal rfl rfl rfl h1 hmax, completed_complete rfl _ _ _ _ _,
      dec0_complete_pair (.inl rfl) _ _ _ _ _⟩,
    fun h => ⟨_, exec_of_width_illegal rfl h, rfl, rfl⟩, rfl⟩

/-- Settles O34: as for `ASRP`, with the pair shifted left. -/
theorem shlpShiftsThePairLeft : Obligations.ShlpShiftsThePairLeft := fun _ _ _ _ =>
  ⟨fun h1 hmax => ⟨_, exec_of_width_legal rfl rfl rfl h1 hmax, completed_complete rfl _ _ _ _ _,
      dec0_complete_pair (.inr rfl) _ _ _ _ _⟩,
    fun h => ⟨_, exec_of_width_illegal rfl h, rfl, rfl⟩, rfl⟩

end Sys2Proof.Machine

/-!
The family of 42_booth_multiplier.md: what the entry check answers for `MUL`, `DIVR` and `DIVNR`, a step in `RUN`, the
decision table of a `MUL` cycle, then the obligations.
-/
namespace Sys2Proof.Machine

/-! ### The entry check of the commands with cycles (R123, R134, R156) -/

/-- A clean start clears `ERR` too, so `ERR` tells the entry check's answer in every case (60_exceptions.md R175). -/
theorem exec_err (i : Instr) (s : State) : ∃ t, exec i s = .next t ∧ t.err = entryCheck s.cfg i := by
  by_cases hc : entryCheck s.cfg i = .none
  · exact ⟨_, exec_of_clean hc, by rw [loadOf_err, hc]⟩
  · exact ⟨_, exec_of_error hc, rfl⟩

theorem widthIllegal_iff {c : Config} {i : Instr} {n : Nat} (hw : i.WellFormed c = widthOk c n) :
    widthIllegal c i = true ↔ n = 0 ∨ c.wmax < n := by
  rw [widthIllegal_eq_not_wellFormed, hw, Bool.not_eq_true', Bool.eq_false_iff, Ne, widthOk_iff]
  omega

theorem guardFails_iff {i : Instr} {g : Bool} {n : Nat} {a b : Int}
    (hg : guardFails i = (g && !(fits a (n - 1) && fits b (n - 1)))) :
    guardFails i = true ↔ g = true ∧ ¬ (fits a (n - 1) = true ∧ fits b (n - 1) = true) := by
  rw [hg, Bool.and_eq_true, Bool.not_eq_true', Bool.eq_false_iff, Ne, Bool.and_eq_true]

/-- `MUL` divides by nothing, so two of the three tests remain. -/
theorem entryCheck_mul (c : Config) (g : Bool) (n : Nat) (a b : Int) :
    entryCheck c (.mul g n a b) =
      if n = 0 ∨ c.wmax < n then .illegalCommand
      else if g = true ∧ ¬ (fits a (n - 1) = true ∧ fits b (n - 1) = true) then .insufficientWidth else .none := by
  have hwidth := widthIllegal_iff (c := c) (i := .mul g n a b) rfl
  have hguard := guardFails_iff (i := .mul g n a b) rfl
  have hzero : divisorZero (.mul g n a b) = false := rfl
  simp only [entryCheck, hwidth, hzero, hguard, Bool.false_eq_true, if_false]

theorem entryCheck_divr (c : Config) (g : Bool) (n : Nat) (a b : Int) :
    entryCheck c (.divr g n a b) =
      if n = 0 ∨ c.wmax < n then .illegalCommand
      else if b = 0 then .divisionByZero
      else if g = true ∧ ¬ (fits a (n - 1) = true ∧ fits b (n - 1) = true) then .insufficientWidth else .none := by
  have hwidth := widthIllegal_iff (c := c) (i := .divr g n a b) rfl
  have hguard := guardFails_iff (i := .divr g n a b) rfl
  have hzero : divisorZero (.divr g n a b) = true ↔ b = 0 := decide_eq_true_iff
  simp only [entryCheck, hwidth, hzero, hguard]

/-- `DIVNR` reads no width and has no guard, so only the test of the divisor remains. -/
theorem entryCheck_divnr (c : Config) (a b : Int) :
    entryCheck c (.divnr a b) = if b = 0 then .divisionByZero else .none := by
  simp [entryCheck, widthIllegal, divisorZero, guardFails]

/-! ### A step in `RUN` (10_state.md R41) -/

theorem step_of_run {s : State} (hr : s.port.rst = false) (hp : s.phase = .run) :
    step s = .next (runStep s.sample) := by
  simp [step, advance, stepWith, hr, hp]

theorem runStep_of_lt {s : State} {lim : Nat} (hl : limit s = some lim) (hlt : s.cnt < lim) :
    runStep s = cycleStep s := by
  rw [runStep_of_limit hl, if_pos hlt]

theorem limit_of_mul {s : State} (h : s.opr = .mul) : limit s = some s.dp.n := by simp [limit, h]

/-! ### The decision table of a `MUL` cycle (42_booth_multiplier.md R117) -/

theorem boothAdd_table {n : Nat} (a m negm : BitVec n) (q0 x : Bool) :
    (q0 = false → x = false → boothAdd a m negm (boothAction q0 x) = a) ∧
    (q0 = false → x = true → boothAdd a m negm (boothAction q0 x) = addBits a m) ∧
    (q0 = true → x = false → boothAdd a m negm (boothAction q0 x) = addBits a negm) ∧
    (q0 = true → x = true → boothAdd a m negm (boothAction q0 x) = a) := by
  refine ⟨?_, ?_, ?_, ?_⟩ <;> rintro rfl rfl <;> rfl

/-! ### The obligations -/

/-- Settles O18: the start step records its entry check in `ERR`, and a step in `RUN` leaves `ERR` alone. -/
theorem errorsOfEachDivisionAndMultiplication : Obligations.ErrorsOfEachDivisionAndMultiplication := by
  refine ⟨fun s g n a b => ?mul, fun s g n a b => ?divr, fun s a b => ?divnr, fun s t hp hr hstep => ?later⟩
  case mul => exact entryCheck_mul s.cfg g n a b ▸ exec_err (.mul g n a b) s
  case divr => exact entryCheck_divr s.cfg g n a b ▸ exec_err (.divr g n a b) s
  case divnr => exact entryCheck_divnr s.cfg a b ▸ exec_err (.divnr a b) s
  case later =>
    obtain rfl : runStep s.sample = t := by simpa [step_of_run hr hp] using hstep
    rw [runStep_err, sample_err]

/-- Settles O36: the cycle step of `MUL`, with the sum that the decision table selects as `A1`. -/
theorem mulCycleAddsThenShifts : Obligations.MulCycleAddsThenShifts := by
  intro s hp hr ho hlt
  obtain ⟨h00, h01, h10, h11⟩ := boothAdd_table s.dp.a s.dp.m s.dp.negm (s.dp.q.getLsbD 0) s.x
  refine ⟨_, h00, h01, h10, h11, ?_⟩
  have hl : limit s.sample = some s.dp.n := limit_of_mul ho
  calc step s = .next (runStep s.sample) := step_of_run hr hp
    _ = .next (mulCycle s.sample) := congrArg _ ((runStep_of_lt hl hlt).trans (cycleStep_of_mul ho))

end Sys2Proof.Machine

/-!
The family of 43_restoring_divider.md: what the start step of a command with cycles leaves, the steps in `RUN` of
`DIVR`, what each does to the datapath, then the obligations.
-/
namespace Sys2Proof.Machine

/-! ### The start step of a command with cycles (30_encoding.md R76, 10_state.md R40) -/

/-- The three commands with cycles enter `RUN` and clear `CNT`; the five primitive ones do neither. -/
theorem loadOf_phase_cnt {i : Instr} (h : i.command = .mul ∨ i.command = .divr ∨ i.command = .divnr) (s : State) :
    (loadOf i s).phase = .run ∧ (loadOf i s).cnt = 0 := by
  cases i with
  | mul | divr | divnr => exact ⟨rfl, rfl⟩
  | cvt | add | neg | asrp | shlp => simp [Instr.command] at h

theorem started_loadOf {i : Instr} (h : i.command = .mul ∨ i.command = .divr ∨ i.command = .divnr) (s : State) :
    Started i.command (writes i.command) s (loadOf i s) := by
  obtain ⟨hphase, hcnt⟩ := loadOf_phase_cnt h s
  exact
    { phase := hphase, err := loadOf_err i s, opr := loadOf_opr i s, cnt := hcnt
      holds := loadOf_holdsExactly i s, cfg := loadOf_cfg i s, inputs := loadOf_inputs i s }

/-! ### The load of `DIVR` (43_restoring_divider.md R130) -/

/-- With a legal width, a divisor and operands that pass the guard, no test of the entry check fires. -/
theorem exec_divr_of_clean {s : State} {g : Bool} {n : Nat} {a b : Int} (h1 : 1 ≤ n) (hmax : n ≤ s.cfg.wmax)
    (hb : b ≠ 0) (hg : g = true → fits a (n - 1) = true ∧ fits b (n - 1) = true) :
    exec (.divr g n a b) s = .next (loadDivr n a b s) := by
  have hwidth : ¬ (n = 0 ∨ s.cfg.wmax < n) := by omega
  have hguard : ¬ (g = true ∧ ¬ (fits a (n - 1) = true ∧ fits b (n - 1) = true)) := fun h => h.2 (hg h.1)
  exact exec_of_clean (by rw [entryCheck_divr, if_neg hwidth, if_neg hb, if_neg hguard])

@[simp] theorem isNegative_iff (v : Int) : isNegative v = true ↔ v < 0 := decide_eq_true_iff

@[simp] theorem divrAccumulator_zero {n : Nat} (q : BitVec n) : divrAccumulator .zero q = 0 := rfl

theorem divrAccumulator_signExtend_getLsbD {n i : Nat} (q : BitVec n) (hi : i < n) :
    (divrAccumulator .signExtend q).getLsbD i = q.getLsbD (n - 1) := by
  rw [divrAccumulator, ← BitVec.msb_eq_getLsbD_last]
  cases q.msb with
  | false => simp
  | true => simp [hi]

/-! ### The steps of `DIVR` in `RUN` (10_state.md R41) -/

theorem limit_of_divr {s : State} (h : s.opr = .divr) : limit s = some s.dp.n := by simp [limit, h]

theorem runStep_of_eq {s : State} (hl : limit s = some s.cnt) : runStep s = finishStep s := by
  rw [runStep_of_limit hl, if_neg (Nat.lt_irrefl _), if_pos rfl]

theorem step_of_divr_lt {s : State} (hp : s.phase = .run) (hr : s.port.rst = false) (ho : s.opr = .divr)
    (hlt : s.cnt < s.dp.n) : step s = .next (divrCycle s.sample) := by
  have hl : limit s.sample = some s.dp.n := limit_of_divr ho
  rw [step_of_run hr hp, runStep_of_lt hl hlt, cycleStep_of_divr (s := s.sample) ho]

theorem step_of_divr_eq {s : State} (hp : s.phase = .run) (hr : s.port.rst = false) (ho : s.opr = .divr)
    (heq : s.cnt = s.dp.n) : step s = .next (divrFinish s.sample) := by
  have hl : limit s.sample = some s.sample.cnt := (limit_of_divr ho).trans (congrArg some heq.symm)
  rw [step_of_run hr hp, runStep_of_eq hl, finishStep_of_divr (s := s.sample) ho]

/-! ### The cycle of `DIVR` (43_restoring_divider.md R131) -/

theorem sameSign_iff {w : Nat} (x y : BitVec w) : sameSign x y = true ↔ x.msb = y.msb := beq_iff_eq

theorem divrTrial_of_msb_eq {n : Nat} {a1 m : BitVec n} (negm : BitVec n) (h : a1.msb = m.msb) :
    divrTrial a1 m negm = addBits a1 negm := if_pos ((sameSign_iff a1 m).2 h)

theorem divrTrial_of_msb_ne {n : Nat} {a1 m : BitVec n} (negm : BitVec n) (h : a1.msb ≠ m.msb) :
    divrTrial a1 m negm = addBits a1 m := if_neg (mt (sameSign_iff a1 m).1 h)

/-- The shift has left 0 in bit 0 of `Q`, so writing the quotient bit 0 there changes nothing. -/
theorem withLsb_shlPairQ_false {w : Nat} (q : BitVec w) : withLsb (shlPairQ q) false = shlPairQ q := by
  refine BitVec.eq_of_getLsbD_eq fun i hi => ?_
  rw [withLsb_getLsbD _ _ _ hi]
  split
  next hzero => rw [shlPairQ_getLsbD q hi, if_pos hzero]
  next => rfl

/-- The trial kept the sign: it is kept, with quotient bit 1. -/
theorem divrDatapath_of_msb_eq {dp : Datapath}
    (h : (divrTrial (shlPairA dp.a dp.q) dp.m dp.negm).msb = (shlPairA dp.a dp.q).msb) :
    divrDatapath dp = ⟨dp.n, divrTrial (shlPairA dp.a dp.q) dp.m dp.negm,
      shlPairQ dp.q ||| BitVec.ofNat dp.n 1, dp.m, dp.negm⟩ := if_pos ((sameSign_iff _ _).2 h)

/-- The trial changed the sign: the shifted `A` is restored, with quotient bit 0. -/
theorem divrDatapath_of_msb_ne {dp : Datapath}
    (h : (divrTrial (shlPairA dp.a dp.q) dp.m dp.negm).msb ≠ (shlPairA dp.a dp.q).msb) :
    divrDatapath dp = ⟨dp.n, shlPairA dp.a dp.q, shlPairQ dp.q, dp.m, dp.negm⟩ := by
  rw [divrDatapath, if_neg (mt (sameSign_iff _ _).1 h), withLsb_shlPairQ_false]

/-! ### The finish of `DIVR` (43_restoring_divider.md R132) -/

theorem divrCorrect_of_ne {sa sb : Bool} (dp : Datapath) (h : sa ≠ sb) :
    divrCorrect dp sa sb = ⟨dp.n, dp.a, negateBits dp.q, dp.m, dp.negm⟩ := if_pos (bne_iff_ne.2 h)

theorem divrCorrect_of_eq {sa sb : Bool} (dp : Datapath) (h : sa = sb) : divrCorrect dp sa sb = dp :=
  if_neg (mt bne_iff_ne.1 (not_not_intro h))

/-! ### The obligations -/

/-- Settles O41: the entry check passes, and the load places the operands and fills `A` by `DIVR_A_INIT`. -/
theorem divrStartLoadsDividendAndDivisor : Obligations.DivrStartLoadsDividendAndDivisor := by
  intro s g n a b h1 hmax hb hg
  refine ⟨loadDivr n a b s, divrAccumulator s.cfg.divrAInit (decimalToBits a n), exec_divr_of_clean h1 hmax hb hg,
    started_loadOf (i := .divr g n a b) (.inr (.inl rfl)) s, loadDivr_dp n a b s, fun hz => ?zero,
    fun he i hi => ?signExtend, rfl, isNegative_iff a, isNegative_iff b, rfl⟩
  case zero => rw [hz, divrAccumulator_zero]
  case signExtend => rw [he, divrAccumulator_signExtend_getLsbD _ hi]

/-- Settles O42: `A1` is the shifted `A`, `A2` the trial, and the signs of the two select what is kept. -/
theorem divrCycleTriesAndRestores : Obligations.DivrCycleTriesAndRestores := by
  intro s hp hr ho hlt
  have hstep := step_of_divr_lt hp hr ho hlt
  refine ⟨shlPairA s.dp.a s.dp.q, divrTrial (shlPairA s.dp.a s.dp.q) s.dp.m s.dp.negm, rfl,
    divrTrial_of_msb_eq s.dp.negm, divrTrial_of_msb_ne s.dp.negm, fun hsame => ?kept, fun hdiff => ?restored⟩
  case kept => rw [hstep, divrCycle, sample_dp, divrDatapath_of_msb_eq hsame]; rfl
  case restored => rw [hstep, divrCycle, sample_dp, divrDatapath_of_msb_ne hdiff]; rfl

/-- Settles O43: the finish step corrects the datapath by `SA` and `SB`, and sets `PHASE`. -/
theorem divrFinishCorrectsTheQuotientSign : Obligations.DivrFinishCorrectsTheQuotientSign := by
  intro s hp hr ho heq
  have hstep := step_of_divr_eq hp hr ho heq
  refine ⟨fun hne => ?negated, fun hsame => ?unchanged⟩
  case negated => rw [hstep, divrFinish, sample_dp, sample_sa, sample_sb, divrCorrect_of_ne _ hne]; rfl
  case unchanged => rw [hstep, divrFinish, sample_dp, sample_sa, sample_sb, divrCorrect_of_eq _ hsame]; rfl

end Sys2Proof.Machine

/-!
The family of 44_non_restoring_divider.md: the length of the dividend magnitude, the start step of `DIVNR`, its steps in
`RUN`, what each does to the remainder, then the obligations.
-/
namespace Sys2Proof.Machine

/-! ### The length of a magnitude (00_scope.md R17, 44_non_restoring_divider.md R152) -/

theorem bitlen_le_iff (m k : Nat) : bitlen m ≤ k ↔ m < 2 ^ k := by
  unfold bitlen
  split
  next hzero => simp [hzero]
  next hpos => rw [Nat.add_one_le_iff, Nat.log2_lt hpos]

theorem one_le_nbits (v : Nat) : 1 ≤ nbits v := Nat.le_max_left 1 (bitlen v)

/-- Among the lengths of at least 1, those that hold `v` are the ones from `nbits v` on. -/
theorem nbits_le_iff (v : Nat) {k : Nat} (hk : 1 ≤ k) : nbits v ≤ k ↔ v < 2 ^ k := by
  rw [nbits, Nat.max_le, bitlen_le_iff, and_iff_right hk]

theorem lt_two_pow_nbits (v : Nat) : v < 2 ^ nbits v := (nbits_le_iff v (one_le_nbits v)).1 le_rfl

/-! ### The start step of `DIVNR` (44_non_restoring_divider.md R150, R156) -/

theorem exec_divnr_of_ne_zero {b : Int} (hb : b ≠ 0) (a : Int) (s : State) :
    exec (.divnr a b) s = .next (loadDivnr a b s) :=
  exec_of_clean (by rw [entryCheck_divnr, if_neg hb])

/-! ### The steps of `DIVNR` in `RUN` (10_state.md R41) -/

theorem limit_of_divnr {s : State} (h : s.opr = .divnr) : limit s = some s.nb := by simp [limit, h]

theorem step_of_divnr_lt {s : State} (hp : s.phase = .run) (hr : s.port.rst = false) (ho : s.opr = .divnr)
    (hlt : s.cnt < s.nb) : step s = .next (divnrCycle s.sample) := by
  have hl : limit s.sample = some s.nb := limit_of_divnr ho
  rw [step_of_run hr hp, runStep_of_lt hl hlt, cycleStep_of_divnr (s := s.sample) ho]

theorem step_of_divnr_eq {s : State} (hp : s.phase = .run) (hr : s.port.rst = false) (ho : s.opr = .divnr)
    (heq : s.cnt = s.nb) : step s = .next (divnrFinish s.sample) := by
  have hl : limit s.sample = some s.sample.cnt := (limit_of_divnr ho).trans (congrArg some heq.symm)
  rw [step_of_run hr hp, runStep_of_eq hl, finishStep_of_divnr (s := s.sample) ho]

/-! ### The remainder of a cycle (44_non_restoring_divider.md R153) -/

theorem divnrRemainder_of_nonneg {r : Int} {bit : Nat} (d : Nat) (h : 0 ≤ 2 * r + (bit : Int)) :
    divnrRemainder r d bit = 2 * r + bit - d := if_pos h

theorem divnrRemainder_of_neg {r : Int} {bit : Nat} (d : Nat) (h : 2 * r + (bit : Int) < 0) :
    divnrRemainder r d bit = 2 * r + bit + d := if_neg (not_le.2 h)

/-! ### The obligations -/

/-- Settles O29: `nbits v ≤ k` says `v < 2 ^ k` for every `k ≥ 1`, and the load of `DIVNR` writes `nbits` of the
dividend's magnitude. -/
theorem nbitsIsTheLeastSufficientLength : Obligations.NbitsIsTheLeastSufficientLength :=
  ⟨fun v => ⟨rfl, one_le_nbits v, lt_two_pow_nbits v, fun _ hk hlt => (nbits_le_iff v hk).2 hlt⟩,
    fun s a b hb => ⟨loadDivnr a b s, exec_divnr_of_ne_zero hb a s, loadDivnr_nb a b s⟩⟩

/-- Settles O49: `r2` is the remainder of the cycle, and the sign of the shifted one selects subtraction or addition. -/
theorem divnrCycleAddsOrSubtracts : Obligations.DivnrCycleAddsOrSubtracts := by
  intro s hp hr ho hlt
  exact ⟨_, divnrRemainder s.r s.d (dividendBit s.v (s.nb - 1 - s.cnt)), rfl,
    divnrRemainder_of_nonneg s.d, divnrRemainder_of_neg s.d, step_of_divnr_lt hp hr ho hlt⟩

/-- Settles O50: the finish step corrects the remainder and sets `PHASE`. -/
theorem divnrFinishCorrectsTheRemainder : Obligations.DivnrFinishCorrectsTheRemainder := by
  intro s hp hr ho heq
  exact step_of_divnr_eq hp hr ho heq

end Sys2Proof.Machine

/-!
The family of 60_exceptions.md: the steps that a start, a reset or neither gives, what a rejected start leaves, the
entry check in terms of the ports, then the obligations.
-/
namespace Sys2Proof

/-! ### The codes on the ports (30_encoding.md R67, R68) -/

theorem code_inj {c c' : Command} : c.code = c'.code ↔ c = c' := by
  refine ⟨fun h => ?_, congrArg Command.code⟩
  have hsome : some c = some c' := by rw [← commandOf_code c, h, commandOf_code]
  exact Option.some.inj hsome

theorem code_not_reserved (c : Command) :
    c.code ∉ ([0b0000, 0b0100, 0b0101, 0b0110, 0b0111, 0b1011, 0b1110, 0b1111] : List OpCode) := by
  rw [← commandOf_eq_none_iff, commandOf_code]
  exact Option.some_ne_none c

/-- A code that is not reserved is the code of the row that the table finds for it. -/
theorem exists_code_of_not_reserved {op : OpCode}
    (h : op ∉ ([0b0000, 0b0100, 0b0101, 0b0110, 0b0111, 0b1011, 0b1110, 0b1111] : List OpCode)) :
    ∃ c : Command, op = c.code := by
  rw [← commandOf_eq_none_iff] at h
  obtain ⟨c, hc⟩ := Option.ne_none_iff_exists'.1 h
  rw [commandOf] at hc
  have hfound := List.find?_some hc
  exact ⟨c, (beq_iff_eq.1 hfound).symm⟩

end Sys2Proof

namespace Sys2Proof.Machine

/-! ### The steps outside `RUN`, and reset (10_state.md R41) -/

theorem step_of_reset {s : State} (hr : s.port.rst = true) : step s = .next s.sample.resetStep := by
  simp [step, advance, stepWith, hr]

theorem step_of_rest {s : State} (hr : s.port.rst = false) (hs : s.port.start = false) (hp : s.phase ≠ .run) :
    step s = .next s.sample := by
  simp [step, advance, stepWith, hr, hs, hp]

theorem step_of_accepts {s : State} {i : Instr} (h : Accepts s i) : step s = exec i s.sample := by
  obtain ⟨hr, hs, hp, hd⟩ := h
  rw [step_of_start hr hs hp, acceptStart, hd]

theorem step_of_no_command {s : State} (hr : s.port.rst = false) (hs : s.port.start = true) (hp : s.phase ≠ .run)
    (hd : ∀ i, decode s.port.cmd ≠ .ok i) : step s = .next (s.sample.raise .illegalCommand) := by
  rw [step_of_start hr hs hp]
  cases he : decode s.port.cmd with
  | ok i => exact absurd he (hd i)
  | error e => exact acceptStart_of_error he s.sample

/-! ### What an accepted start leaves (60_exceptions.md R176, R179) -/

/-- Taking an error leaves nothing but the error, whatever the state before it. -/
theorem raise_leaves_only_error (e : ErrorCode) (s : State) :
    (s.raise e).err = e ∧ (s.raise e).phase = .err ∧ errOut (s.raise e) = e.code ∧ busy (s.raise e) = false ∧
    done (s.raise e) = false ∧ rhi (s.raise e) = none ∧ rlo (s.raise e) = none ∧ rx (s.raise e) = none ∧
    dec0 (s.raise e) = none ∧ dec1 (s.raise e) = none ∧ HoldsExactly (s.raise e) [.phase, .err] ∧
    (s.raise e).cfg = s.cfg ∧ (s.raise e).inputs = s.inputs := by
  have hrun : ¬InRun (s.raise e) := by simp [InRun]
  obtain ⟨hrhi, hrlo, hrx⟩ := bits_of_not_shown fun h => hrun h.1
  obtain ⟨hdec0, hdec1⟩ := dec_of_not_done fun h => hrun (.inr h)
  exact ⟨rfl, rfl, rfl, rfl, rfl, hrhi, hrlo, hrx, hdec0, hdec1, holdsExactly_of_err rfl, rfl, rfl⟩

theorem inRun_of_exec_clean {i : Instr} {s t : State} (h : exec i s = .next t) (hc : entryCheck s.cfg i = .none) :
    InRun t := by
  rcases exec_cases h with ⟨-, rfl⟩ | ⟨herr, -⟩
  · exact loadOf_inRun i s
  · exact absurd hc herr

/-! ### The entry check on the ports (60_exceptions.md R175) -/

theorem widthIllegal_fields_iff (cfg : Config) (c : Command) (p : CommandPorts) :
    widthIllegal cfg (c.fields p) = true ↔ c ≠ .divnr ∧ (p.width = 0 ∨ cfg.wmax < p.width) := by
  cases c with
  | divnr => simp [Command.fields, widthIllegal]
  | mul | divr | cvt | add | neg | asrp | shlp => simp [Command.fields, widthIllegal]

theorem divisorZero_fields_iff (c : Command) (p : CommandPorts) :
    divisorZero (c.fields p) = true ↔ (c = .divr ∨ c = .divnr) ∧ p.b = 0 := by
  cases c with
  | divr | divnr => simp [Command.fields, divisorZero]
  | mul | cvt | add | neg | asrp | shlp => simp [Command.fields, divisorZero]

theorem guardFails_fields_iff (c : Command) (p : CommandPorts) :
    guardFails (c.fields p) = true ↔ (c = .mul ∨ c = .divr) ∧ p.wchk = true ∧
      ¬ (fits p.a (p.width - 1) = true ∧ fits p.b (p.width - 1) = true) := by
  cases c with
  | mul | divr => exact (guardFails_iff rfl).trans (by simp)
  | divnr | cvt | add | neg | asrp | shlp => simp [Command.fields, guardFails]

/-- The three tests in their order, with the command read off the code on `op`. -/
theorem entryCheck_fields (cfg : Config) {c : Command} {p : CommandPorts} (hop : p.op = c.code) :
    entryCheck cfg (c.fields p) =
      if p.op ≠ 0b0011 ∧ (p.width = 0 ∨ cfg.wmax < p.width) then .illegalCommand
      else if (p.op = 0b0010 ∨ p.op = 0b0011) ∧ p.b = 0 then .divisionByZero
      else if (p.op = 0b0001 ∨ p.op = 0b0010) ∧ p.wchk = true ∧
          ¬ (fits p.a (p.width - 1) = true ∧ fits p.b (p.width - 1) = true) then .insufficientWidth
      else .none := by
  have hmul : p.op = 0b0001 ↔ c = .mul := by rw [hop]; exact code_inj (c' := .mul)
  have hdivr : p.op = 0b0010 ↔ c = .divr := by rw [hop]; exact code_inj (c' := .divr)
  have hdivnr : p.op = 0b0011 ↔ c = .divnr := by rw [hop]; exact code_inj (c' := .divnr)
  simp only [entryCheck, widthIllegal_fields_iff, divisorZero_fields_iff, guardFails_fields_iff, ne_eq, hmul, hdivr,
    hdivnr]

/-! ### The obligations -/

/-- Settles O13: a reserved code is caught by the decoder, any other names a command, whose `exec` records its entry
check in `ERR`. -/
theorem startReportsTheFirstErrorOfTheEntryCheck : Obligations.StartReportsTheFirstErrorOfTheEntryCheck := by
  intro s hr hs hp
  split
  next hres =>
    have hstep := step_of_start hr hs hp
    rw [acceptStart_of_error (decode_of_reserved hres)] at hstep
    exact ⟨_, hstep, rfl⟩
  next hres =>
    obtain ⟨c, hop⟩ := exists_code_of_not_reserved hres
    rw [step_of_accepts ⟨hr, hs, hp, decode_of_code hop⟩, ← entryCheck_fields s.cfg hop]
    exact exec_err (c.fields s.port.cmd) s.sample

/-- Settles O15: both kinds of rejected start are the taking of an error. -/
theorem rejectedCommandLeavesOnlyItsError : Obligations.RejectedCommandLeavesOnlyItsError :=
  ⟨fun s _ hc => ⟨_, exec_of_error hc, raise_leaves_only_error _ s⟩,
    fun s hr hs hp hd => ⟨_, step_of_no_command hr hs hp hd, raise_leaves_only_error .illegalCommand s.sample⟩⟩

/-- Settles O17: `ERR` is outside `RUN`, so the ports alone select the step. -/
theorem errorIsLeftByStartOrReset : Obligations.ErrorIsLeftByStartOrReset := by
  intro s herr
  have hp : s.phase ≠ .run := by simp [herr]
  refine ⟨fun i ha => ?command, fun hr hs hd => ?reserved, fun hr => ?reset, fun hr hs => step_of_rest hr hs hp⟩
  case command =>
    obtain ⟨t, ht, hcode⟩ := exec_err i s.sample
    refine ⟨t, (step_of_accepts ha).trans ht, hcode, fun hc => ?_⟩
    rcases inRun_of_exec_clean ht hc with h | h <;> simp [h]
  case reserved => exact ⟨_, step_of_no_command hr hs hp hd, rfl⟩
  case reset => exact ⟨_, step_of_reset hr, rfl, rfl⟩

end Sys2Proof.Machine

/-!
The family of 70_reset_and_hazards.md: the ports that several steps take, a run followed step by step to `DONE`, the
number of steps of a command, then the obligations.
-/
namespace Sys2Proof.Machine

/-! ### Several steps, and the ports they take (10_state.md R43) -/

theorem steps_succ_of_step {s t : State} (h : step s = .next t) (k : Nat) : steps (k + 1) s = steps k t := by
  simp [steps, h]

theorem steps_one_of_step {s t : State} (h : step s = .next t) : steps 1 s = .next t := steps_succ_of_step h 0

/-- What holds of ports at rest and of the next `k + 1` ports holds of the ports of this step and of the `k` after it,
also where the caller's list ends. -/
theorem port_and_tail_of_forall_take {P : Inputs → Prop} (hidle : P Inputs.idle) {s : State} {k : Nat}
    (h : ∀ p ∈ s.inputs.take (k + 1), P p) : P s.port ∧ ∀ p ∈ s.inputs.tail.take k, P p := by
  unfold State.port
  cases hi : s.inputs with
  | nil => simpa using hidle
  | cons p is => simpa [hi] using h

theorem noReset_succ {s t : State} {k : Nat} (h : NoReset (k + 1) s) (ht : t.inputs = s.inputs.tail) :
    s.port.rst = false ∧ NoReset k t := by
  rw [NoReset, ht]
  exact port_and_tail_of_forall_take (P := (·.rst = false)) rfl h

theorem noReset_mono {j k : Nat} {s : State} (hjk : j ≤ k) (h : NoReset k s) : NoReset j s :=
  fun p hp => h p ((List.take_sublist_take_left hjk).subset hp)

theorem quiet_succ {s : State} {k : Nat} (h : Quiet (k + 1) s) :
    s.port.rst = false ∧ s.port.start = false ∧ Quiet k s.sample := by
  obtain ⟨⟨hr, hs⟩, htail⟩ := port_and_tail_of_forall_take ⟨rfl, rfl⟩ h
  exact ⟨hr, hs, htail⟩

/-- Outside `RUN` quiet steps only take their ports (10_state.md R41). -/
theorem steps_of_quiet {k : Nat} {s : State} (hp : s.phase ≠ .run) (hq : Quiet k s) :
    steps k s = .next { s with inputs := s.inputs.drop k } := by
  induction k generalizing s with
  | zero => rfl
  | succ k ih =>
    obtain ⟨hr, hs, hq'⟩ := quiet_succ hq
    calc steps (k + 1) s = steps k s.sample := steps_succ_of_step (step_of_rest hr hs hp) k
      _ = .next { s with inputs := s.inputs.tail.drop k } := ih hp hq'
      _ = .next { s with inputs := s.inputs.drop (k + 1) } := by rw [List.drop_tail]

/-! ### A run from its start to `DONE` (10_state.md R31, R41) -/

/-- No cycle writes the register that holds its `LIM`, and each counts one up. -/
theorem cycleStep_limit_cnt {s : State} {lim : Nat} (hl : limit s = some lim) :
    limit (cycleStep s) = some lim ∧ (cycleStep s).cnt = s.cnt + 1 := by
  cases ho : s.opr with
  | mul => rw [cycleStep_of_mul ho]; exact ⟨hl, rfl⟩
  | divr =>
    obtain ⟨a, q, hdp⟩ := divrDatapath_shape s.dp
    rw [limit_of_divr ho] at hl
    rw [cycleStep_of_divr ho]
    exact ⟨by rw [limit_of_divr (s := divrCycle s) ho, divrCycle_dp, hdp, hl], rfl⟩
  | divnr => rw [cycleStep_of_divnr ho]; exact ⟨hl, rfl⟩
  | cvt | add | neg | asrp | shlp => simp [limit, ho] at hl

/-- What a step in `RUN` below `LIM` leaves of a run. -/
theorem step_below_limit {s : State} {lim : Nat} (hr : s.port.rst = false) (hp : s.phase = .run)
    (hl : limit s = some lim) (hlt : s.cnt < lim) :
    ∃ u, step s = .next u ∧ u.phase = .run ∧ limit u = some lim ∧ u.cnt = s.cnt + 1 ∧ u.opr = s.opr ∧ u.err = s.err ∧
      u.inputs = s.inputs.tail := by
  obtain ⟨hlimit, hcnt⟩ := cycleStep_limit_cnt (s := s.sample) hl
  exact ⟨cycleStep s.sample, by rw [step_of_run hr hp, runStep_of_lt (s := s.sample) hl hlt],
    by rw [cycleStep_phase, sample_phase, hp], hlimit, hcnt, by simp, by simp, by simp⟩

/-- What a step in `RUN` at `LIM` leaves of a run. -/
theorem step_at_limit {s : State} (hr : s.port.rst = false) (hp : s.phase = .run) (hl : limit s = some s.cnt) :
    ∃ t, step s = .next t ∧ t.phase = .done ∧ t.opr = s.opr ∧ t.cnt = s.cnt ∧ t.err = s.err :=
  ⟨finishStep s.sample, by rw [step_of_run hr hp, runStep_of_eq (s := s.sample) hl], finishStep_phase (s := s.sample) hl,
    by simp, by simp, by simp⟩

/-- A run with `k` cycles to go is in `DONE` after `k + 1` steps. -/
theorem steps_to_done {k lim : Nat} {s : State} (hp : s.phase = .run) (hl : limit s = some lim)
    (hk : s.cnt + k = lim) (hn : NoReset (k + 1) s) :
    ∃ t, steps (k + 1) s = .next t ∧ t.phase = .done ∧ t.opr = s.opr ∧ t.cnt = lim ∧ t.err = s.err := by
  induction k generalizing s with
  | zero =>
    obtain rfl : s.cnt = lim := hk
    obtain ⟨hr, -⟩ := noReset_succ (t := s.sample) hn rfl
    obtain ⟨t, hstep, hdone⟩ := step_at_limit hr hp hl
    exact ⟨t, steps_one_of_step hstep, hdone⟩
  | succ k ih =>
    obtain ⟨hr, -⟩ := noReset_succ (t := s.sample) hn rfl
    obtain ⟨u, hstep, hup, hul, hcnt, hopr, herr, hin⟩ := step_below_limit hr hp hl (by omega)
    rw [steps_succ_of_step hstep, ← hopr, ← herr]
    exact ih hup hul (by omega) (noReset_succ hn hin).2

/-- A run stays in `RUN`, one cycle counted a step, until its last cycle is done. -/
theorem steps_in_run {j lim : Nat} {s : State} (hp : s.phase = .run) (hl : limit s = some lim)
    (hj : s.cnt + j ≤ lim) (hn : NoReset j s) :
    ∃ u, steps j s = .next u ∧ u.phase = .run ∧ u.cnt = s.cnt + j := by
  induction j generalizing s with
  | zero => exact ⟨s, rfl, hp, rfl⟩
  | succ j ih =>
    obtain ⟨hr, -⟩ := noReset_succ (t := s.sample) hn rfl
    obtain ⟨u, hstep, hup, hul, hcnt, -, -, hin⟩ := step_below_limit hr hp hl (by omega)
    obtain ⟨v, hsteps, hvp, hvcnt⟩ := ih hup hul (by omega) (noReset_succ hn hin).2
    exact ⟨v, (steps_succ_of_step hstep j).trans hsteps, hvp, by omega⟩

/-! ### The number of steps of a command (R206) -/

/-- A load enters a run of `LIM = stepCount - 2` cycles, or completes the command in its one step. -/
theorem loadOf_stepCount_cases (i : Instr) (s : State) :
    ((loadOf i s).phase = .run ∧ (loadOf i s).cnt = 0 ∧ ∃ lim, limit (loadOf i s) = some lim ∧ stepCount i = lim + 2) ∨
    ((loadOf i s).phase = .done ∧ stepCount i = 1) := by
  cases i with
  | mul | divr | divnr => exact .inl ⟨rfl, rfl, _, rfl, rfl⟩
  | cvt | add | neg | asrp | shlp => exact .inr ⟨rfl, rfl⟩

theorem step_of_acceptsCleanly {s : State} {i : Instr} (h : AcceptsCleanly s i) :
    step s = .next (loadOf i s.sample) :=
  (step_of_accepts h.1).trans (exec_of_clean h.2)

/-! ### The ports in `RUN` (R200) -/

/-- A step in `RUN` takes its ports and reads nothing of them but `rst`. -/
theorem step_of_run_cons {s : State} {p : Inputs} (is : List Inputs) (hp : s.phase = .run) (hr : p.rst = false) :
    step { s with inputs := p :: is } = .next (runStep { s with inputs := is }) :=
  step_of_run (s := { s with inputs := p :: is }) hr hp

/-! ### When the data outputs are specified (R201, 10_state.md R35) -/

theorem dec_isSome_iff (s : State) :
    ((dec0 s).isSome = true ↔ s.phase = .done) ∧ ((dec1 s).isSome = true ↔ s.phase = .done) := by
  by_cases h : s.phase = .done
  · obtain ⟨h0, h1⟩ := dec_of_done h
    simp [h0, h1, h]
  · obtain ⟨h0, h1⟩ := dec_of_not_done h
    simp [h0, h1, h]

theorem bits_isSome_iff (s : State) :
    ((rhi s).isSome = true ↔ InRun s ∧ s.opr ≠ .divnr) ∧ ((rlo s).isSome = true ↔ InRun s ∧ s.opr ≠ .divnr) ∧
    ((rx s).isSome = true ↔ InRun s ∧ s.opr ≠ .divnr) := by
  by_cases h : InRun s ∧ s.opr ≠ .divnr
  · obtain ⟨hhi, hlo, hx⟩ := bits_of_shown h.1 h.2
    exact ⟨iff_of_true (by simp [hhi]) h, iff_of_true (by simp [hlo]) h, iff_of_true (by simp [hx]) h⟩
  · obtain ⟨hhi, hlo, hx⟩ := bits_of_not_shown h
    exact ⟨iff_of_false (by simp [hhi]) h, iff_of_false (by simp [hlo]) h, iff_of_false (by simp [hx]) h⟩

/-! ### The obligations -/

/-- Settles O57: a clean start is the command's load, and the run it enters, if any, goes on for `LIM` cycles and the
finish step; every other start raises its error. -/
theorem commandsTakeTheirStepCount : Obligations.CommandsTakeTheirStepCount := by
  refine ⟨fun s i hc hn => ?clean, fun s i ha hc => ?rejected, fun s hr hs hp hd => ?reserved⟩
  case clean =>
    have hstep := step_of_acceptsCleanly hc
    rcases loadOf_stepCount_cases i s.sample with ⟨hrun, hcnt, lim, hl, hcount⟩ | ⟨hdone, hcount⟩
    · rw [hcount] at hn ⊢
      have hn' : NoReset (lim + 1) (loadOf i s.sample) := (noReset_succ hn (by simp)).2
      refine ⟨?_, fun j h1 hj => ?_⟩
      · obtain ⟨t, hsteps, htp, hopr, -, herr⟩ := steps_to_done hrun hl (by omega) hn'
        exact ⟨t, (steps_succ_of_step hstep _).trans hsteps, htp, by simpa using hopr, by simpa using herr⟩
      · obtain ⟨j, rfl⟩ := Nat.exists_eq_add_of_le' h1
        obtain ⟨u, hsteps, hup, -⟩ := steps_in_run (j := j) hrun hl (by omega) (noReset_mono (by omega) hn')
        exact ⟨u, (steps_succ_of_step hstep j).trans hsteps, hup⟩
    · rw [hcount]
      exact ⟨⟨_, steps_one_of_step hstep, hdone, loadOf_opr i _, loadOf_err i _⟩, fun j h1 hj => by omega⟩
  case rejected => exact ⟨_, (step_of_accepts ha).trans (exec_of_error hc), rfl⟩
  case reserved => exact ⟨_, step_of_no_command hr hs hp hd, rfl⟩

/-- Settles O6: whatever the ports, the step is the same `runStep` of the state without them. -/
theorem startDuringARunIsLost : Obligations.StartDuringARunIsLost := by
  intro s p p' is hp hr hr'
  have hstep := step_of_run_cons is hp hr
  refine ⟨hstep.trans (step_of_run_cons is hp hr').symm, fun t ht => ?lost, fun lim hl hcnt => ?finish⟩
  case lost =>
    obtain rfl : runStep { s with inputs := is } = t := by simpa [hstep] using ht
    rw [done_iff]
    exact ⟨runStep_inputs _, (runStep_phase_cases (s := { s with inputs := is }) hp).imp_right And.left⟩
  case finish =>
    subst hcnt
    obtain ⟨t, ht, hdone, -⟩ := step_at_limit (s := { s with inputs := p :: is }) hr hp hl
    exact ⟨t, ht, (done_iff t).2 hdone⟩

/-- Settles O7: quiet steps take their ports and change nothing else; which outputs are specified is read off `PHASE`
and `OPR`. -/
theorem resultsStayUntilStartOrReset : Obligations.ResultsStayUntilStartOrReset := by
  refine ⟨fun _ _ => steps_of_quiet, fun s => ?_⟩
  obtain ⟨hdec0, hdec1⟩ := dec_isSome_iff s
  exact ⟨hdec0, hdec1, bits_isSome_iff s⟩

/-- Settles O2: `rst` is looked at before the phase, and the reset step leaves `IDLE`. -/
theorem resetStepEndsInIdleFromAnyState : Obligations.ResetStepEndsInIdleFromAnyState := by
  intro s hr
  exact ⟨_, step_of_reset hr, rfl, rfl, rfl, rfl, rfl, rfl, holdsExactly_of_idle rfl, rfl, rfl⟩

end Sys2Proof.Machine

/-!
The family of 10_state.md again: what a step in `RUN` can do by the latched command and what it leaves unchanged, then
the obligation on its frame.
-/
namespace Sys2Proof.Machine

/-! ### The steps in `RUN` by the latched command (10_state.md R27, R41) -/

/-- The commands that have a `LIM` are those with cycles. -/
theorem opr_cases_of_limit {s : State} {lim : Nat} (h : limit s = some lim) :
    (s.opr = .mul ∧ s.dp.n = lim) ∨ (s.opr = .divr ∧ s.dp.n = lim) ∨ (s.opr = .divnr ∧ s.nb = lim) := by
  cases ho : s.opr with
  | mul | divr | divnr => simpa [limit, ho] using h
  | cvt | add | neg | asrp | shlp => simp [limit, ho] at h

/-- Everything a step in `RUN` can do: nothing, or the cycle or finish step of `MUL`, `DIVR` or `DIVNR`. -/
theorem runStep_cases_of_opr (s : State) :
    runStep s = s ∨
    (s.opr = .mul ∧ (runStep s = mulCycle s ∨ runStep s = mulFinish s)) ∨
    (s.opr = .divr ∧ (runStep s = divrCycle s ∨ runStep s = divrFinish s)) ∨
    (s.opr = .divnr ∧ (runStep s = divnrCycle s ∨ runStep s = divnrFinish s)) := by
  rcases runStep_cases s with ⟨lim, hl, -, h⟩ | ⟨hl, h⟩ | h
  · rcases opr_cases_of_limit hl with ⟨ho, -⟩ | ⟨ho, -⟩ | ⟨ho, -⟩
    · exact .inr (.inl ⟨ho, .inl (h.trans (cycleStep_of_mul ho))⟩)
    · exact .inr (.inr (.inl ⟨ho, .inl (h.trans (cycleStep_of_divr ho))⟩))
    · exact .inr (.inr (.inr ⟨ho, .inl (h.trans (cycleStep_of_divnr ho))⟩))
  · rcases opr_cases_of_limit hl with ⟨ho, -⟩ | ⟨ho, -⟩ | ⟨ho, -⟩
    · exact .inr (.inl ⟨ho, .inr (h.trans (finishStep_of_mul ho))⟩)
    · exact .inr (.inr (.inl ⟨ho, .inr (h.trans (finishStep_of_divr ho))⟩))
    · exact .inr (.inr (.inr ⟨ho, .inr (h.trans (finishStep_of_divnr ho))⟩))
  · exact .inl h

/-- No step in `RUN` writes the width, `M` or `NEGM` (10_state.md R20, R23, R24). -/
theorem runStep_dp_shape (s : State) : ∃ a q, (runStep s).dp = ⟨s.dp.n, a, q, s.dp.m, s.dp.negm⟩ := by
  rcases runStep_cases_of_opr s with h | ⟨-, h | h⟩ | ⟨-, h | h⟩ | ⟨-, h | h⟩ <;> rw [h]
  · exact ⟨_, _, rfl⟩
  · exact mulDatapath_shape s.dp s.x
  · exact ⟨_, _, rfl⟩
  · exact divrDatapath_shape s.dp
  · exact ⟨_, divrCorrect_shape s.dp s.sa s.sb⟩
  · exact ⟨_, _, rfl⟩
  · exact ⟨_, _, rfl⟩

/-- Only `MUL` writes `X` in `RUN` (10_state.md R25). -/
theorem runStep_x {s : State} (ho : s.opr ≠ .mul) : (runStep s).x = s.x := by
  rcases runStep_cases_of_opr s with h | ⟨hm, -⟩ | ⟨-, h | h⟩ | ⟨-, h | h⟩
  case inr.inl => exact absurd hm ho
  all_goals simp [h]

/-- Only `DIVNR` writes `R` and `QM` in `RUN` (10_state.md R29). -/
theorem runStep_r_qm {s : State} (ho : s.opr ≠ .divnr) : (runStep s).r = s.r ∧ (runStep s).qm = s.qm := by
  rcases runStep_cases_of_opr s with h | ⟨-, h | h⟩ | ⟨-, h | h⟩ | ⟨hd, -⟩
  case inr.inr.inr => exact absurd hd ho
  all_goals simp [h]

/-- `DIVNR` computes outside the datapath. -/
theorem runStep_dp_of_divnr {s : State} (ho : s.opr = .divnr) : (runStep s).dp = s.dp := by
  rcases runStep_cases_of_opr s with h | ⟨hc, -⟩ | ⟨hc, -⟩ | ⟨-, h | h⟩
  case inr.inl => exact absurd (ho.symm.trans hc) nofun
  case inr.inr.inl => exact absurd (ho.symm.trans hc) nofun
  all_goals simp [h]

@[simp] theorem limit_finishStep (s : State) : limit (finishStep s) = limit s := by
  cases ho : s.opr with
  | mul => rw [finishStep_of_mul ho]; rfl
  | divr =>
    obtain ⟨q, hdp⟩ := divrCorrect_shape s.dp s.sa s.sb
    rw [finishStep_of_divr ho, limit_of_divr ho, limit_of_divr (s := divrFinish s) ho, divrFinish_dp, hdp]
  | divnr => rw [finishStep_of_divnr ho]; rfl
  | cvt | add | neg | asrp | shlp => simp [finishStep, ho]

/-! ### The obligation -/

/-- Settles O54: each clause is a frame lemma of the step in `RUN`, read on the state whose ports have been taken. -/
theorem runStepsKeepWhatTheyDoNotWrite : Obligations.RunStepsKeepWhatTheyDoNotWrite := by
  intro s t hp hr hstep
  obtain rfl : runStep s.sample = t := by simpa [step_of_run hr hp] using hstep
  exact ⟨runStep_dp_shape s.sample, runStep_opr _, runStep_sa _, runStep_sb _, runStep_v _, runStep_d _, runStep_nb _,
    runStep_err _, runStep_cfg _, runStep_inputs _, runStep_fresh _, runStep_x (s := s.sample),
    runStep_r_qm (s := s.sample), runStep_dp_of_divnr (s := s.sample)⟩

end Sys2Proof.Machine

/-!
The invariant of the machine: what it says of each phase and of each latched command, the running remainder of `DIVNR`
cycle by cycle, then what each kind of step does to it, and the obligations.
-/
namespace Sys2Proof.Machine

/-! ### The running remainder of `DIVNR` (44_non_restoring_divider.md R153, R157, R160) -/

theorem dividendBit_le_one (v i : Nat) : dividendBit v i ≤ 1 := by
  rw [dividendBit]
  omega

/-- One more bit of the dividend: its top `k + 1` bits are the top `k`, doubled, and the next bit. -/
theorem topBits_succ (v : Nat) {nb k : Nat} (h : k < nb) :
    v / 2 ^ (nb - (k + 1)) = 2 * (v / 2 ^ (nb - k)) + dividendBit v (nb - 1 - k) := by
  have hexp : nb - k = nb - 1 - k + 1 := by omega
  have hexp' : nb - (k + 1) = nb - 1 - k := by omega
  rw [hexp, hexp', pow_succ, ← Nat.div_div_eq_div_mul, dividendBit, Nat.div_add_mod]

/-- The remainder after a cycle lies in `[-d, d-1]`, as the one before it. -/
theorem divnrRemainder_range {r : Int} {d bit : Nat} (hlow : -(d : Int) ≤ r) (hhigh : r < d) (hbit : bit ≤ 1) :
    -(d : Int) ≤ divnrRemainder r d bit ∧ divnrRemainder r d bit < d := by
  by_cases h : 0 ≤ 2 * r + (bit : Int)
  · rw [divnrRemainder_of_nonneg d h]
    omega
  · rw [divnrRemainder_of_neg d (not_le.1 h)]
    omega

/-- Whatever the two signs, a cycle takes `d * (2 * qm + 1)` in all from the dividend's bits so far: the subtraction
subtracts it, the addition makes up for the divisor that the negative remainder was too low by. -/
theorem divnrRemainder_eq {r V : Int} {d qm bit : Nat} (hid : r = V - d * (qm + if r < 0 then 1 else 0))
    (hbit : bit ≤ 1) : divnrRemainder r d bit = 2 * V + bit - d * (2 * qm + 1) := by
  by_cases hneg : r < 0
  · rw [if_pos hneg] at hid
    rw [divnrRemainder_of_neg d (by omega)]
    linear_combination 2 * hid
  · rw [if_neg hneg] at hid
    rw [divnrRemainder_of_nonneg d (by omega)]
    linear_combination 2 * hid

theorem quotientBit_add_ite (r : Int) : (quotientBit r : Int) + (if r < 0 then 1 else 0) = 1 := by
  by_cases h : r < 0
  · simp [quotientBit, h, not_le.2 h]
  · simp [quotientBit, h, not_lt.1 h]

theorem quotientBit_le_one (r : Int) : quotientBit r ≤ 1 := by
  unfold quotientBit
  split <;> decide

theorem DivnrRemainder.sample {s : State} (h : DivnrRemainder s) : DivnrRemainder s.sample :=
  ⟨h.lower, h.upper, h.identity, h.quotient⟩

theorem DivnrRemainder.cycle {s : State} (h : DivnrRemainder s) (hlt : s.cnt < s.nb) :
    DivnrRemainder (divnrCycle s) := by
  have hbit := dividendBit_le_one s.v (s.nb - 1 - s.cnt)
  obtain ⟨hlow, hhigh⟩ := divnrRemainder_range h.lower h.upper hbit
  refine ⟨hlow, hhigh, ?identity, ?quotient⟩
  case identity =>
    have heq := divnrRemainder_eq h.identity hbit
    have hq := quotientBit_add_ite (divnrCycle s).r
    rw [divnrCycle_r] at hq ⊢
    rw [divnrCycle_v, divnrCycle_nb, divnrCycle_cnt, divnrCycle_d, divnrCycle_qm, topBits_succ s.v hlt]
    push_cast
    rw [add_assoc (2 * (s.qm : Int)), hq]
    exact heq
  case quotient =>
    have hq := quotientBit_le_one (divnrCycle s).r
    have hold := h.quotient
    rw [divnrCycle_r] at hq
    rw [divnrCycle_qm, divnrCycle_cnt, pow_succ]
    omega

/-- The correction adds the one divisor that a negative remainder is too low by, and ends in `[0, d-1]`. -/
theorem divnrCorrect_range {r : Int} {d : Nat} (hlow : -(d : Int) ≤ r) (hhigh : r < d) :
    0 ≤ divnrCorrect r d ∧ divnrCorrect r d < d := by
  unfold divnrCorrect
  split <;> omega

/-- After the last cycle all bits of the dividend are in, and the corrected remainder is the one of the division. -/
theorem DivnrRemainder.division {s : State} (h : DivnrRemainder s) (hcnt : s.cnt = s.nb) :
    (s.v : Int) = (s.d : Int) * (s.qm : Int) + divnrCorrect s.r s.d ∧ 0 ≤ divnrCorrect s.r s.d ∧
      divnrCorrect s.r s.d < (s.d : Int) := by
  refine ⟨?_, divnrCorrect_range h.lower h.upper⟩
  have hid := h.identity
  rw [hcnt, Nat.sub_self, pow_zero, Nat.div_one] at hid
  unfold divnrCorrect
  split
  next hneg =>
    rw [if_pos hneg] at hid
    linear_combination -hid
  next hpos =>
    rw [if_neg hpos] at hid
    linear_combination -hid

/-! ### The invariant by phase and by latched command -/

/-- What the invariant says of the registers of a run, by the latched command. -/
def RowInv (s : State) : Prop :=
  match s.opr with
  | .mul              => (1 ≤ s.dp.n ∧ s.dp.n ≤ s.cfg.wmax) ∧ s.dp.negm = negateBits s.dp.m
  | .divr             => (1 ≤ s.dp.n ∧ s.dp.n ≤ s.cfg.wmax) ∧ s.dp.negm = negateBits s.dp.m ∧ s.x = false
  | .divnr            => 1 ≤ s.d ∧ s.nb = nbits s.v
  | .cvt | .add | .neg => (1 ≤ s.dp.n ∧ s.dp.n ≤ s.cfg.wmax) ∧ s.x = false ∧ s.dp.a = 0
  | .asrp             => 1 ≤ s.dp.n ∧ s.dp.n ≤ s.cfg.wmax
  | .shlp             => (1 ≤ s.dp.n ∧ s.dp.n ≤ s.cfg.wmax) ∧ s.x = false

/-- The row of the latched command is the invariant's five fields about the registers of a run. -/
theorem rowInv_iff (s : State) :
    RowInv s ↔
      (s.opr ≠ .divnr → 1 ≤ s.dp.n ∧ s.dp.n ≤ s.cfg.wmax) ∧
      (s.opr = .mul ∨ s.opr = .divr → s.dp.negm = negateBits s.dp.m) ∧
      (s.opr ≠ .mul → s.opr ≠ .asrp → s.opr ≠ .divnr → s.x = false) ∧
      (s.opr = .cvt ∨ s.opr = .add ∨ s.opr = .neg → s.dp.a = 0) ∧
      (s.opr = .divnr → 1 ≤ s.d ∧ s.nb = nbits s.v) := by
  unfold RowInv
  cases s.opr <;> simp

theorem Inv.row {s : State} (hi : Inv s) (hr : InRun s) : RowInv s :=
  (rowInv_iff s).2 ⟨hi.width hr, hi.negated hr, hi.extraBit hr, hi.highHalf hr, hi.magnitudes hr⟩

/-- In `IDLE` every other field is about another phase. -/
theorem inv_of_idle {s : State} (hw : 1 ≤ s.cfg.wmax) (hp : s.phase = .idle) (he : s.err = .none) (hc : s.cnt = 0) :
    Inv s := by
  constructor <;> simp [hw, hp, he, hc, InRun]

/-- In `ERR` every other field is about another phase. -/
theorem inv_of_err {s : State} (hw : 1 ≤ s.cfg.wmax) (hp : s.phase = .err) (he : s.err ≠ .none) : Inv s := by
  constructor <;> simp [hw, hp, he, InRun]

theorem inv_of_run {s : State} (hw : 1 ≤ s.cfg.wmax) (hp : s.phase = .run) (he : s.err = .none)
    (hl : ∃ lim, limit s = some lim ∧ s.cnt ≤ lim) (hrow : RowInv s) (hrem : s.opr = .divnr → DivnrRemainder s) :
    Inv s := by
  obtain ⟨hwidth, hneg, hx, ha, hmag⟩ := (rowInv_iff s).1 hrow
  exact
    { wmaxPositive := hw, errorPhase := by simp [hp, he], idleCount := by simp [hp], running := fun _ => hl
      completed := by simp [hp], width := fun _ => hwidth, negated := fun _ => hneg, extraBit := fun _ => hx
      highHalf := fun _ => ha, magnitudes := fun _ => hmag, remainder := fun _ => hrem, division := by simp [hp] }

theorem inv_of_done {s : State} (hw : 1 ≤ s.cfg.wmax) (hp : s.phase = .done) (he : s.err = .none)
    (hl : ∀ lim, limit s = some lim → s.cnt = lim) (hrow : RowInv s)
    (hdiv : s.opr = .divnr → (s.v : Int) = (s.d : Int) * (s.qm : Int) + s.r ∧ 0 ≤ s.r ∧ s.r < (s.d : Int)) :
    Inv s := by
  obtain ⟨hwidth, hneg, hx, ha, hmag⟩ := (rowInv_iff s).1 hrow
  exact
    { wmaxPositive := hw, errorPhase := by simp [hp, he], idleCount := by simp [hp], running := by simp [hp]
      completed := fun _ => hl, width := fun _ => hwidth, negated := fun _ => hneg, extraBit := fun _ => hx
      highHalf := fun _ => ha, magnitudes := fun _ => hmag, remainder := by simp [hp], division := fun _ => hdiv }

theorem Inv.sample {s : State} (hi : Inv s) : Inv s.sample :=
  { hi with remainder := fun hp ho => (hi.remainder hp ho).sample }

theorem Inv.err_of_inRun {s : State} (hi : Inv s) (hr : InRun s) : s.err = .none := by
  by_contra he
  have hp := hi.errorPhase.2 he
  simp [InRun, hp] at hr

/-! ### A clean start enters the invariant (60_exceptions.md R174, R171) -/

theorem width_of_wellFormed {c : Config} {i : Instr} {n : Nat} (hok : i.WellFormed c = true)
    (hw : i.WellFormed c = widthOk c n) : 1 ≤ n ∧ n ≤ c.wmax :=
  (widthOk_iff c n).1 (hw.symm.trans hok)

theorem wellFormed_of_clean {c : Config} {i : Instr} (hc : entryCheck c i = .none) : i.WellFormed c = true := by
  obtain ⟨hw, -, -⟩ := (entryCheck_eq_none_iff c i).1 hc
  simpa [widthIllegal_eq_not_wellFormed] using hw

theorem divisor_ne_zero_of_clean {c : Config} {a b : Int} (hc : entryCheck c (.divnr a b) = .none) : b ≠ 0 := by
  rintro rfl
  simp [entryCheck_divnr] at hc

theorem rowInv_loadOf {i : Instr} {s : State} (hc : entryCheck s.cfg i = .none) : RowInv (loadOf i s) := by
  have hok := wellFormed_of_clean hc
  cases i with
  | mul => exact ⟨width_of_wellFormed hok rfl, rfl⟩
  | divr => exact ⟨width_of_wellFormed hok rfl, rfl, rfl⟩
  | divnr a b => exact ⟨Int.natAbs_pos.2 (divisor_ne_zero_of_clean hc), rfl⟩
  | cvt | add | neg => exact ⟨width_of_wellFormed hok rfl, rfl, rfl⟩
  | asrp => exact width_of_wellFormed hok rfl
  | shlp => exact ⟨width_of_wellFormed hok rfl, rfl⟩

/-- At the start no bit of the dividend is in: all `NB` of them are still to the right of the cut. -/
theorem divnrRemainder_loadDivnr {a b : Int} (hb : b ≠ 0) (s : State) : DivnrRemainder (loadDivnr a b s) where
  lower := by simp
  upper := by simpa [magnitude] using hb
  identity := by simp [Nat.div_eq_of_lt (lt_two_pow_nbits (magnitude a))]
  quotient := by simp

theorem inv_loadOf {i : Instr} {s : State} (hw : 1 ≤ s.cfg.wmax) (hc : entryCheck s.cfg i = .none) :
    Inv (loadOf i s) := by
  have hw' : 1 ≤ (loadOf i s).cfg.wmax := by rwa [loadOf_cfg]
  cases i with
  | mul | divr => exact inv_of_run hw' rfl rfl ⟨_, rfl, Nat.zero_le _⟩ (rowInv_loadOf hc) nofun
  | divnr a b =>
    exact inv_of_run hw' rfl rfl ⟨_, rfl, Nat.zero_le _⟩ (rowInv_loadOf hc)
      fun _ => divnrRemainder_loadDivnr (divisor_ne_zero_of_clean hc) s
  | cvt | add | neg | asrp | shlp => exact inv_of_done hw' rfl rfl nofun (rowInv_loadOf hc) nofun

/-! ### A step in `RUN` keeps the invariant (10_state.md R41) -/

/-- What the invariant says of a run reads nothing that a step of the run writes. -/
theorem rowInv_runStep {s : State} {lim : Nat} (h : RowInv s) (hl : limit s = some lim) : RowInv (runStep s) := by
  obtain ⟨a, q, hdp⟩ := runStep_dp_shape s
  have hn : (runStep s).dp.n = s.dp.n := by rw [hdp]
  have hneg : (runStep s).dp.negm = negateBits (runStep s).dp.m ↔ s.dp.negm = negateBits s.dp.m := by
    rw [hdp]
  unfold RowInv at h ⊢
  rcases opr_cases_of_limit hl with ⟨ho, -⟩ | ⟨ho, -⟩ | ⟨ho, -⟩
  · simpa [ho, hn, hneg] using h
  · have hx : (runStep s).x = s.x := runStep_x (by simp [ho])
    simpa [ho, hn, hneg, hx] using h
  · simpa [ho] using h

theorem inv_cycleStep {s : State} {lim : Nat} (hi : Inv s) (hp : s.phase = .run) (hl : limit s = some lim)
    (hlt : s.cnt < lim) : Inv (cycleStep s) := by
  obtain ⟨hl', hcnt⟩ := cycleStep_limit_cnt hl
  have hrow := rowInv_runStep (hi.row (.inl hp)) hl
  rw [runStep_of_lt hl hlt] at hrow
  refine inv_of_run (by simpa using hi.wmaxPositive) (by simpa using hp) (by simpa using hi.err_of_inRun (.inl hp))
    ⟨lim, hl', by omega⟩ hrow fun ho => ?_
  rw [cycleStep_opr] at ho
  rw [limit_of_divnr ho, Option.some_inj] at hl
  rw [cycleStep_of_divnr ho]
  exact (hi.remainder hp ho).cycle (hl ▸ hlt)

theorem inv_finishStep {s : State} (hi : Inv s) (hp : s.phase = .run) (hl : limit s = some s.cnt) :
    Inv (finishStep s) := by
  have hrow := rowInv_runStep (hi.row (.inl hp)) hl
  rw [runStep_of_eq hl] at hrow
  refine inv_of_done (by simpa using hi.wmaxPositive) (finishStep_phase hl) (by simpa using hi.err_of_inRun (.inl hp))
    (fun lim hlim => ?count) hrow fun ho => ?division
  case count =>
    rw [limit_finishStep, hl, Option.some_inj] at hlim
    rw [finishStep_cnt, hlim]
  case division =>
    rw [finishStep_opr] at ho
    rw [limit_of_divnr ho, Option.some_inj] at hl
    rw [finishStep_of_divnr ho]
    exact (hi.remainder hp ho).division hl.symm

theorem inv_runStep {s : State} (hi : Inv s) (hp : s.phase = .run) : Inv (runStep s) := by
  rcases runStep_cases s with ⟨lim, hl, hlt, h⟩ | ⟨hl, h⟩ | h
  · rw [h]; exact inv_cycleStep hi hp hl hlt
  · rw [h]; exact inv_finishStep hi hp hl
  · rw [h]; exact hi

/-- An accepted start of a command leaves its load, or an error. -/
theorem inv_of_exec {i : Instr} {s t : State} (hw : 1 ≤ s.cfg.wmax) (h : exec i s = .next t) : Inv t := by
  rcases exec_cases h with ⟨hc, rfl⟩ | ⟨hc, rfl⟩
  · exact inv_loadOf hw hc
  · exact inv_of_err hw rfl hc

/-! ### The obligations -/

/-- Settles O60: a reset, an accepted start and its errors make the invariant anew, a step in `RUN` and an idle step
carry it on. -/
theorem everyStepKeepsTheInvariant : Obligations.EveryStepKeepsTheInvariant := by
  intro s t hi h
  have hw := hi.wmaxPositive
  rcases step_cases h with ⟨-, rfl⟩ | ⟨-, hp, rfl⟩ | ⟨-, -, -, i, -, hexec⟩ | ⟨-, -, -, -, rfl⟩ | ⟨-, -, -, rfl⟩
  case inl => exact inv_of_idle hw rfl rfl rfl
  case inr.inl => exact inv_runStep hi.sample hp
  case inr.inr.inl => exact inv_of_exec (s := s.sample) hw hexec
  case inr.inr.inr.inl => exact inv_of_err hw rfl nofun
  case inr.inr.inr.inr => exact hi.sample

/-- Settles O59: a reset state is in `IDLE`, without error and with `CNT = 0`. -/
theorem invariantHoldsAfterReset : Obligations.InvariantHoldsAfterReset := by
  intro c is hw
  exact ⟨inv_of_idle hw rfl rfl rfl, inv_of_idle (by decide) rfl rfl rfl⟩

/-- Settles O52: the invariant bounds the remainder before the cycle, and each step of the cycle keeps the bound. -/
theorem divnrRemainderStaysInRange : Obligations.DivnrRemainderStaysInRange := by
  intro s hi hp ho bit hbit
  obtain ⟨hlow, hhigh, -, hquotient⟩ := hi.remainder hp ho
  obtain ⟨hlow2, hhigh2⟩ := divnrRemainder_range hlow hhigh hbit
  obtain ⟨hlow3, hhigh3⟩ := divnrCorrect_range hlow hhigh
  exact ⟨by omega, by omega, hlow2, by omega, hlow3, by omega, hquotient⟩

end Sys2Proof.Machine

/-!
Decoding and encoding as inverses (30_encoding.md sections 2, 4 and 6), then the obligations.
-/
namespace Sys2Proof

/-! ### Encoding a command and decoding it again (30_encoding.md R67, R69) -/

theorem encode_op (i : Instr) : (encode i).op = i.command.code := by
  cases i with
  | mul g n a b  => exact (Laws.CodeNamesCommand.mul g n a b).1
  | divr g n a b => exact (Laws.CodeNamesCommand.divr g n a b).1
  | divnr a b    => exact (Laws.CodeNamesCommand.divnr a b).1
  | cvt n a      => exact (Laws.CodeNamesCommand.cvt n a).1
  | add n a b    => exact (Laws.CodeNamesCommand.add n a b).1
  | neg n a      => exact (Laws.CodeNamesCommand.neg n a).1
  | asrp n a b   => exact (Laws.CodeNamesCommand.asrp n a b).1
  | shlp n a b   => exact (Laws.CodeNamesCommand.shlp n a b).1

/-- The encoder fills every port that the command reads. -/
theorem fields_encode (i : Instr) : i.command.fields (encode i) = i := by cases i <;> rfl

theorem decode_encode (i : Instr) : decode (encode i) = .ok i := by
  rw [decode_of_code (encode_op i), fields_encode]

theorem encode_injective : Function.Injective encode := by
  intro i j h
  have hok : (Except.ok i : Except DecodeError Instr) = .ok j := by rw [← decode_encode i, h, decode_encode j]
  exact Except.ok.inj hok

@[simp] theorem command_fields (c : Command) (p : CommandPorts) : (c.fields p).command = c := by cases c <;> rfl

/-- The decoder answers a command only for its own code. -/
theorem op_of_decode {p : CommandPorts} {i : Instr} (h : decode p = .ok i) : p.op = i.command.code := by
  by_cases hres : p.op ∈ ([0b0000, 0b0100, 0b0101, 0b0110, 0b0111, 0b1011, 0b1110, 0b1111] : List OpCode)
  · rw [decode_of_reserved hres] at h
    cases h
  · obtain ⟨c, hc⟩ := exists_code_of_not_reserved hres
    obtain rfl : c.fields p = i := Except.ok.inj ((decode_of_code hc).symm.trans h)
    rw [hc, command_fields]

/-! ### The obligations -/

/-- Settles O11: the decoder reads back what the encoder placed, and a code belongs to one command. -/
theorem decodeInvertsEncode : Obligations.DecodeInvertsEncode := by
  refine ⟨decode_encode, fun _ _ h => encode_injective h, fun p i h => ?_⟩
  have hop : p.op = (encode i).op := by rw [op_of_decode h, encode_op]
  refine ⟨hop, fun p' hp' => ?_⟩
  rw [hp', hop]
  exact decode_encode i

/-- Settles O12: the low four bits of each word are the code of its row, every other port is zero, and the codes of the
last two words are reserved. -/
theorem tableWordsDecode : Obligations.TableWordsDecode :=
  ⟨rfl, rfl, rfl, rfl, rfl, rfl, rfl, rfl, rfl, rfl⟩

end Sys2Proof

/-!
The step table (10_state.md section 9), the width test of the entry check, and the loads of `MUL` and `DIVNR`, then the
obligations.
-/
namespace Sys2Proof.Machine

/-! ### Which step applies (10_state.md R41) -/

/-- The step function is total: each of the kinds of step answers a next state. -/
theorem step_total (s : State) : ∃ t, step s = .next t := by
  cases hr : s.port.rst with
  | true => exact ⟨_, step_of_reset hr⟩
  | false =>
    by_cases hp : s.phase = .run
    · exact ⟨_, step_of_run hr hp⟩
    · cases hs : s.port.start with
      | false => exact ⟨_, step_of_rest hr hs hp⟩
      | true =>
        rw [step_of_start hr hs hp]
        cases hd : decode s.port.cmd with
        | ok i => exact ⟨_, by rw [acceptStart, hd]; exact exec_eq i s.sample⟩
        | error e => exact ⟨_, acceptStart_of_error hd s.sample⟩

theorem runStep_of_no_limit {s : State} (h : limit s = none) : runStep s = s := by simp [runStep, h]

/-! ### The entry check (60_exceptions.md R174, R175) -/

/-- The entry check answers `IllegalCommand` in its first test only. -/
theorem entryCheck_eq_illegalCommand_iff (c : Config) (i : Instr) :
    entryCheck c i = .illegalCommand ↔ widthIllegal c i = true := by
  unfold entryCheck
  cases widthIllegal c i <;> cases divisorZero i <;> cases guardFails i <;> simp

/-- With a legal width and operands that pass the guard, no test of the entry check fires. -/
theorem exec_mul_of_clean {s : State} {g : Bool} {n : Nat} {a b : Int} (h1 : 1 ≤ n) (hmax : n ≤ s.cfg.wmax)
    (hg : g = true → fits a (n - 1) = true ∧ fits b (n - 1) = true) :
    exec (.mul g n a b) s = .next (loadMul n a b s) := by
  have hwidth : ¬ (n = 0 ∨ s.cfg.wmax < n) := by omega
  have hguard : ¬ (g = true ∧ ¬ (fits a (n - 1) = true ∧ fits b (n - 1) = true)) := fun h => h.2 (hg h.1)
  exact exec_of_clean (by rw [entryCheck_mul, if_neg hwidth, if_neg hguard])

/-! ### The obligations -/

/-- Settles O3: each kind of step is the step function under its own condition, and together they cover every state. -/
theorem stepFollowsTheStepTable : Obligations.StepFollowsTheStepTable := by
  intro s
  refine ⟨?total, step_of_reset, fun hr hp => ?outside, fun hr hp lim hl => ?limited, fun hr hp hl => ?unlimited⟩
  case total =>
    obtain ⟨t, ht⟩ := step_total s
    exact ⟨t, ht, fun u hu => Host.Outcome.next.inj (hu.symm.trans ht)⟩
  case outside =>
    cases hs : s.port.start with
    | true => exact step_of_start hr hs hp
    | false => exact step_of_rest hr hs hp
  case limited => rw [step_of_run hr hp, runStep_of_limit (s := s.sample) hl, sample_cnt]
  case unlimited => rw [step_of_run hr hp, runStep_of_no_limit (s := s.sample) hl]

/-- Settles O4: an accepted start reaches the decoder, which answers the command. -/
theorem stepRunsTheDecodedCommand : Obligations.StepRunsTheDecodedCommand := fun _ _ => step_of_accepts

/-- Settles O14: only the width test gives `IllegalCommand`, and it is the negation of well-formedness. -/
theorem illegalCommandExactlyWhenIllFormed : Obligations.IllegalCommandExactlyWhenIllFormed := by
  intro c i
  rw [entryCheck_eq_illegalCommand_iff, widthIllegal_eq_not_wellFormed, Bool.not_eq_true']

/-- Settles O58: the run goes on below `LIM`, and its finish step is the last of the steps counted. -/
theorem aRunAlwaysReachesDone : Obligations.ARunAlwaysReachesDone := by
  intro s lim hp hl hcnt hn
  exact ⟨steps_to_done hp hl (by omega) hn,
    fun j hj => steps_in_run hp hl (by omega) (noReset_mono (by omega) hn)⟩

/-- Settles O35: the entry check passes, and the load places the operands. -/
theorem mulStartLoadsBoothRegisters : Obligations.MulStartLoadsBoothRegisters := by
  intro s g n a b h1 hmax hg
  exact ⟨loadMul n a b s, exec_mul_of_clean h1 hmax hg, started_loadOf (i := .mul g n a b) (.inl rfl) s, rfl, rfl⟩

/-- Settles O37: at `CNT = N` the step is the finish step of `MUL`, which sets `PHASE`; in `DONE` the outputs read the
pair and `X`. -/
theorem mulFinishShowsThePair : Obligations.MulFinishShowsThePair := by
  intro s hp hr ho hcnt
  have hl : limit s.sample = some s.sample.cnt := (limit_of_mul ho).trans (congrArg some hcnt.symm)
  have hstep : step s = .next (mulFinish s.sample) := by
    rw [step_of_run hr hp, runStep_of_eq hl, finishStep_of_mul (s := s.sample) ho]
  obtain ⟨hdec0, hdec1⟩ := dec_of_done (mulFinish_phase s.sample)
  obtain ⟨-, -, hrx⟩ := bits_of_shown (s := mulFinish s.sample) (.inr rfl) (by simp [ho])
  exact ⟨_, hstep, rfl, by simp [hdec0, dec0Value, ho], by simp [hdec1, dec1Value, ho], hrx⟩

/-- Settles O48: a divisor other than zero passes the entry check, and the load writes magnitudes and signs. -/
theorem divnrStartLoadsMagnitudesAndSigns : Obligations.DivnrStartLoadsMagnitudesAndSigns := by
  intro s a b hb
  exact ⟨loadDivnr a b s, exec_divnr_of_ne_zero hb a s,
    started_loadOf (i := .divnr a b) (.inr (.inr rfl)) s, rfl, rfl, rfl, rfl, rfl, isNegative_iff a, isNegative_iff b⟩

end Sys2Proof.Machine

/-!
Registers that hold no value are never read (10_state.md R38): what an equality of views says of the registers, what
the outputs and each kind of step make of it, then the obligations.
-/
namespace Sys2Proof.Machine

/-! ### What equal views say of the registers -/

theorem holds_of_inRun {s : State} (h : InRun s) (reg : Register) : s.holds reg = (writes s.opr).contains reg := by
  rcases h with h | h <;> simp [State.holds, h]

theorem eq_of_seen_eq {α : Type} {s s' : State} {reg : Register} {v v' : α} (h : s.seen reg v = s'.seen reg v')
    (hh : s.holds reg = true) : v = v' := by
  rw [State.seen, if_pos hh, State.seen] at h
  split at h
  · exact Option.some.inj h
  · cases h

theorem phase_of_view_eq {s s' : State} (hv : s.view = s'.view) : s.phase = s'.phase := congrArg View.phase hv

theorem err_of_view_eq {s s' : State} (hv : s.view = s'.view) : s.err = s'.err := congrArg View.err hv

theorem inRun_of_view_eq {s s' : State} (hv : s.view = s'.view) (hr : InRun s) : InRun s' := by
  rwa [InRun, ← phase_of_view_eq hv]

/-- `OPR` is in every row of the table of R40. -/
theorem opr_of_view_eq {s s' : State} (hv : s.view = s'.view) (hr : InRun s) : s.opr = s'.opr :=
  eq_of_seen_eq (congrArg View.opr hv) (by rw [holds_of_inRun hr]; cases s.opr <;> rfl)

/-- `N`, `A`, `Q` and `X` are in every row but that of `DIVNR`. -/
theorem writes_contains_bits {c : Command} (hc : c ≠ .divnr) {reg : Register}
    (hreg : reg = .n ∨ reg = .a ∨ reg = .q ∨ reg = .x) : (writes c).contains reg = true := by
  cases c with
  | divnr => exact absurd rfl hc
  | mul | divr | cvt | add | neg | asrp | shlp => rcases hreg with rfl | rfl | rfl | rfl <;> rfl

theorem bits_of_view_eq {s s' : State} (hv : s.view = s'.view) (hr : InRun s) (ho : s.opr ≠ .divnr) :
    s.dp.n = s'.dp.n ∧ uval s.dp.a = uval s'.dp.a ∧ uval s.dp.q = uval s'.dp.q ∧ s.x = s'.x := by
  have hholds {reg : Register} (hreg : reg = .n ∨ reg = .a ∨ reg = .q ∨ reg = .x) : s.holds reg = true := by
    rw [holds_of_inRun hr, writes_contains_bits ho hreg]
  exact ⟨eq_of_seen_eq (congrArg View.n hv) (hholds (by simp)), eq_of_seen_eq (congrArg View.a hv) (hholds (by simp)),
    eq_of_seen_eq (congrArg View.q hv) (hholds (by simp)), eq_of_seen_eq (congrArg View.x hv) (hholds (by simp))⟩

/-- A datapath is its width and the unsigned readings of its four registers. -/
theorem datapath_eq_iff (dp dp' : Datapath) :
    dp = dp' ↔ dp.n = dp'.n ∧ uval dp.a = uval dp'.a ∧ uval dp.q = uval dp'.q ∧ uval dp.m = uval dp'.m ∧
      uval dp.negm = uval dp'.negm := by
  refine ⟨fun h => by subst h; simp, ?_⟩
  obtain ⟨n, a, q, m, negm⟩ := dp
  obtain ⟨n', a', q', m', negm'⟩ := dp'
  rintro ⟨hn, ha, hq, hm, hnegm⟩
  obtain rfl : n = n' := hn
  dsimp only at ha hq hm hnegm
  rw [BitVec.eq_of_toNat_eq ha, BitVec.eq_of_toNat_eq hq, BitVec.eq_of_toNat_eq hm, BitVec.eq_of_toNat_eq hnegm]

theorem view_eq_iff_of_mul {s s' : State} (hr : InRun s) (hr' : InRun s') (ho : s.opr = .mul) (ho' : s'.opr = .mul) :
    s.view = s'.view ↔ s.phase = s'.phase ∧ s.err = s'.err ∧ s.cnt = s'.cnt ∧ s.dp = s'.dp ∧ s.x = s'.x := by
  simp [State.view, State.seen, holds_of_inRun hr, holds_of_inRun hr', ho, ho', writes, datapath_eq_iff, and_assoc]

theorem view_eq_iff_of_divr {s s' : State} (hr : InRun s) (hr' : InRun s') (ho : s.opr = .divr)
    (ho' : s'.opr = .divr) :
    s.view = s'.view ↔ s.phase = s'.phase ∧ s.err = s'.err ∧ s.cnt = s'.cnt ∧ s.dp = s'.dp ∧ s.x = s'.x ∧
      s.sa = s'.sa ∧ s.sb = s'.sb := by
  simp [State.view, State.seen, holds_of_inRun hr, holds_of_inRun hr', ho, ho', writes, datapath_eq_iff, and_assoc]

theorem view_eq_iff_of_divnr {s s' : State} (hr : InRun s) (hr' : InRun s') (ho : s.opr = .divnr)
    (ho' : s'.opr = .divnr) :
    s.view = s'.view ↔ s.phase = s'.phase ∧ s.err = s'.err ∧ s.cnt = s'.cnt ∧ s.sa = s'.sa ∧ s.sb = s'.sb ∧
      s.v = s'.v ∧ s.d = s'.d ∧ s.nb = s'.nb ∧ s.r = s'.r ∧ s.qm = s'.qm := by
  simp [State.view, State.seen, holds_of_inRun hr, holds_of_inRun hr', ho, ho', writes]

/-! ### The outputs (10_state.md R35, R36) -/

theorem bitsToDecimal_congr {w w' : Nat} {v : BitVec w} {v' : BitVec w'} (hw : w = w') (h : uval v = uval v') :
    bitsToDecimal v = bitsToDecimal v' := by
  subst hw
  rw [BitVec.eq_of_toNat_eq h]

theorem bitsToDecimal_pair_congr {w w' : Nat} {a q : BitVec w} {a' q' : BitVec w'} (hw : w = w')
    (ha : uval a = uval a') (hq : uval q = uval q') : bitsToDecimal (pair a q) = bitsToDecimal (pair a' q') := by
  subst hw
  rw [BitVec.eq_of_toNat_eq ha, BitVec.eq_of_toNat_eq hq]

theorem bitOutputs_congr {s s' : State} (hv : s.view = s'.view) :
    rx s = rx s' ∧ (rhi s).map uval = (rhi s').map uval ∧ (rlo s).map uval = (rlo s').map uval := by
  by_cases h : InRun s ∧ s.opr ≠ .divnr
  · obtain ⟨hr, ho⟩ := h
    obtain ⟨-, ha, hq, hx⟩ := bits_of_view_eq hv hr ho
    obtain ⟨hhi, hlo, hrx⟩ := bits_of_shown hr ho
    obtain ⟨hhi', hlo', hrx'⟩ := bits_of_shown (inRun_of_view_eq hv hr) (opr_of_view_eq hv hr ▸ ho)
    simp [hhi, hlo, hrx, hhi', hlo', hrx', ha, hq, hx]
  · obtain ⟨hhi, hlo, hrx⟩ := bits_of_not_shown h
    have h' : ¬ (InRun s' ∧ s'.opr ≠ .divnr) := fun ⟨hr', ho'⟩ =>
      h ⟨inRun_of_view_eq hv.symm hr', opr_of_view_eq hv.symm hr' ▸ ho'⟩
    obtain ⟨hhi', hlo', hrx'⟩ := bits_of_not_shown h'
    simp [hhi, hlo, hrx, hhi', hlo', hrx']

theorem decValues_congr {s s' : State} (hv : s.view = s'.view) (hr : InRun s) :
    dec0Value s = dec0Value s' ∧ dec1Value s = dec1Value s' := by
  have hr' := inRun_of_view_eq hv hr
  have hopr := opr_of_view_eq hv hr
  by_cases ho : s.opr = .divnr
  · have ho' := hopr ▸ ho
    obtain ⟨-, -, -, hsa, hsb, -, -, -, hrem, hqm⟩ := (view_eq_iff_of_divnr hr hr' ho ho').1 hv
    simp [dec0Value, dec1Value, ho, ho', hsa, hsb, hrem, hqm]
  · obtain ⟨hn, ha, hq, -⟩ := bits_of_view_eq hv hr ho
    simp only [dec0Value, dec1Value, ← hopr, bitsToDecimal_congr hn ha, bitsToDecimal_congr hn hq,
      bitsToDecimal_pair_congr hn ha hq]
    cases hc : s.opr with
    | divnr => exact absurd hc ho
    | mul | divr | cvt | add | neg | asrp | shlp => exact ⟨rfl, rfl⟩

theorem decOutputs_congr {s s' : State} (hv : s.view = s'.view) : dec0 s = dec0 s' ∧ dec1 s = dec1 s' := by
  have hphase := phase_of_view_eq hv
  by_cases hp : s.phase = .done
  · obtain ⟨h0, h1⟩ := decValues_congr hv (.inr hp)
    simp [dec0, dec1, ← hphase, hp, h0, h1]
  · simp [dec0, dec1, ← hphase, hp]

/-! ### The steps (10_state.md R41) -/

theorem view_congr_of_idle {s s' : State} (h : s.phase = .idle) (h' : s'.phase = .idle) (he : s.err = s'.err)
    (hc : s.cnt = s'.cnt) : s.view = s'.view := by
  simp [State.view, State.seen, State.holds, h, h', he, hc]

/-- Which step of the run applies is read off `LIM` and `CNT`. -/
theorem view_runStep_congr_of_limit {s s' : State} {lim : Nat} (hl : limit s = some lim) (hl' : limit s' = some lim)
    (hcnt : s.cnt = s'.cnt) (hidle : s.view = s'.view) (hcycle : (cycleStep s).view = (cycleStep s').view)
    (hfinish : (finishStep s).view = (finishStep s').view) : (runStep s).view = (runStep s').view := by
  rw [runStep_of_limit hl, runStep_of_limit hl', ← hcnt]
  split_ifs <;> assumption

/-- A step in `RUN` reads only registers of its command's row. -/
theorem view_runStep_congr {s s' : State} (hv : s.view = s'.view) (hp : s.phase = .run) :
    (runStep s).view = (runStep s').view := by
  have hp' : s'.phase = .run := phase_of_view_eq hv ▸ hp
  have hopr := opr_of_view_eq hv (.inl hp)
  cases ho : s.opr with
  | mul =>
    have ho' := hopr ▸ ho
    obtain ⟨-, herr, hcnt, hdp, hx⟩ := (view_eq_iff_of_mul (.inl hp) (.inl hp') ho ho').1 hv
    refine view_runStep_congr_of_limit (limit_of_mul ho) (by rw [limit_of_mul ho', hdp]) hcnt hv ?cycle ?finish
    case cycle =>
      have hbit : asrPairX s.dp.q = asrPairX s'.dp.q := by rw [hdp]
      rw [cycleStep_of_mul ho, cycleStep_of_mul ho']
      refine (view_eq_iff_of_mul (s := mulCycle s) (s' := mulCycle s') (.inl hp) (.inl hp') ho ho').2 ?_
      simp [hp, hp', herr, hcnt, hdp, hx, hbit]
    case finish =>
      rw [finishStep_of_mul ho, finishStep_of_mul ho']
      refine (view_eq_iff_of_mul (s := mulFinish s) (s' := mulFinish s') (.inr rfl) (.inr rfl) ho ho').2 ?_
      simp [herr, hcnt, hdp, hx]
  | divr =>
    have ho' := hopr ▸ ho
    obtain ⟨-, herr, hcnt, hdp, hx, hsa, hsb⟩ := (view_eq_iff_of_divr (.inl hp) (.inl hp') ho ho').1 hv
    refine view_runStep_congr_of_limit (limit_of_divr ho) (by rw [limit_of_divr ho', hdp]) hcnt hv ?cycle ?finish
    case cycle =>
      rw [cycleStep_of_divr ho, cycleStep_of_divr ho']
      refine (view_eq_iff_of_divr (s := divrCycle s) (s' := divrCycle s') (.inl hp) (.inl hp') ho ho').2 ?_
      simp [hp, hp', herr, hcnt, hdp, hx, hsa, hsb]
    case finish =>
      rw [finishStep_of_divr ho, finishStep_of_divr ho']
      refine (view_eq_iff_of_divr (s := divrFinish s) (s' := divrFinish s') (.inr rfl) (.inr rfl) ho ho').2 ?_
      simp [herr, hcnt, hdp, hx, hsa, hsb]
  | divnr =>
    have ho' := hopr ▸ ho
    obtain ⟨-, herr, hcnt, hsa, hsb, hV, hd, hnb, hr, hqm⟩ := (view_eq_iff_of_divnr (.inl hp) (.inl hp') ho ho').1 hv
    refine view_runStep_congr_of_limit (limit_of_divnr ho) (by rw [limit_of_divnr ho', hnb]) hcnt hv ?cycle ?finish
    case cycle =>
      rw [cycleStep_of_divnr ho, cycleStep_of_divnr ho']
      refine (view_eq_iff_of_divnr (s := divnrCycle s) (s' := divnrCycle s') (.inl hp) (.inl hp') ho ho').2 ?_
      simp [hp, hp', herr, hcnt, hsa, hsb, hV, hd, hnb, hr, hqm]
    case finish =>
      rw [finishStep_of_divnr ho, finishStep_of_divnr ho']
      refine (view_eq_iff_of_divnr (s := divnrFinish s) (s' := divnrFinish s') (.inr rfl) (.inr rfl) ho ho').2 ?_
      simp [herr, hcnt, hsa, hsb, hV, hd, hnb, hr, hqm]
  | cvt | add | neg | asrp | shlp =>
    rwa [runStep_of_no_limit (by simp [limit, ho]), runStep_of_no_limit (by simp [limit, ← hopr, ho])]

/-- An accepted start reads the ports and the parameters alone, whatever the registers hold. -/
theorem acceptStart_view_congr (p : CommandPorts) {s s' : State} (h : s.cfg = s'.cfg) :
    ∃ t t', acceptStart p s = .next t ∧ acceptStart p s' = .next t' ∧ t.view = t'.view := by
  cases hd : decode p with
  | ok i =>
    simp only [acceptStart, hd]
    exact exec_view_congr i h
  | error e => exact ⟨_, _, acceptStart_of_error hd s, acceptStart_of_error hd s', view_congr_of_err rfl rfl rfl⟩

/-- Parameters and ports after any step. -/
theorem step_cfg_inputs {s t : State} (h : step s = .next t) : t.cfg = s.cfg ∧ t.inputs = s.inputs.tail := by
  rcases step_cases h with ⟨-, rfl⟩ | ⟨-, -, rfl⟩ | ⟨-, -, -, i, -, hexec⟩ | ⟨-, -, -, -, rfl⟩ | ⟨-, -, -, rfl⟩
  case inr.inr.inl =>
    rcases exec_cases hexec with ⟨-, rfl⟩ | ⟨-, rfl⟩
    · exact ⟨loadOf_cfg i _, loadOf_inputs i _⟩
    · exact ⟨rfl, rfl⟩
  all_goals simp

theorem step_view_congr {s s' : State} (hv : s.view = s'.view) (hcfg : s.cfg = s'.cfg) (hin : s.inputs = s'.inputs) :
    ∃ t t', step s = .next t ∧ step s' = .next t' ∧ t.view = t'.view := by
  have hport : s.port = s'.port := by rw [State.port, State.port, hin]
  have hphase := phase_of_view_eq hv
  cases hr : s.port.rst with
  | true => exact ⟨_, _, step_of_reset hr, step_of_reset (hport ▸ hr), view_congr_of_idle rfl rfl rfl rfl⟩
  | false =>
    have hr' := hport ▸ hr
    by_cases hp : s.phase = .run
    · exact ⟨_, _, step_of_run hr hp, step_of_run hr' (hphase ▸ hp),
        view_runStep_congr (s := s.sample) (s' := s'.sample) hv hp⟩
    · have hp' := hphase ▸ hp
      cases hs : s.port.start with
      | true =>
        rw [step_of_start hr hs hp, step_of_start hr' (hport ▸ hs) hp', ← hport]
        exact acceptStart_view_congr s.port.cmd (s := s.sample) (s' := s'.sample) hcfg
      | false => exact ⟨_, _, step_of_rest hr hs hp, step_of_rest hr' (hport ▸ hs) hp', hv⟩

theorem steps_view_congr {k : Nat} {s s' : State} (hv : s.view = s'.view) (hcfg : s.cfg = s'.cfg)
    (hin : s.inputs = s'.inputs) : ∃ t t', steps k s = .next t ∧ steps k s' = .next t' ∧ t.view = t'.view := by
  induction k generalizing s s' with
  | zero => exact ⟨s, s', rfl, rfl, hv⟩
  | succ k ih =>
    obtain ⟨u, u', hu, hu', huv⟩ := step_view_congr hv hcfg hin
    obtain ⟨hc, hi⟩ := step_cfg_inputs hu
    obtain ⟨hc', hi'⟩ := step_cfg_inputs hu'
    rw [steps_succ_of_step hu, steps_succ_of_step hu']
    exact ih huv (by rw [hc, hc', hcfg]) (by rw [hi, hi', hin])

/-! ### The obligations -/

/-- Settles O55: the outputs and the step read only what the view shows, the parameters and the ports. -/
theorem registersWithoutValueAreNeverRead : Obligations.RegistersWithoutValueAreNeverRead := by
  intro s s' hv hcfg hin
  have hphase := phase_of_view_eq hv
  obtain ⟨hrx, hrhi, hrlo⟩ := bitOutputs_congr hv
  obtain ⟨hdec0, hdec1⟩ := decOutputs_congr hv
  exact ⟨⟨by simp [busy, hphase], by simp [done, hphase], by simp [errOut, err_of_view_eq hv], hrx, hdec0, hdec1, hrhi,
    hrlo⟩, step_view_congr hv hcfg hin⟩

/-- Settles O56: the accepted start makes the views equal, and no later step tells the two machines apart. -/
theorem resultsDoNotDependOnThePast : Obligations.ResultsDoNotDependOnThePast := by
  intro s s' k hcfg hin hp hp' hr hs hk
  obtain ⟨k, rfl⟩ := Nat.exists_eq_add_of_le' hk
  have hport : s.port = s'.port := by rw [State.port, State.port, hin]
  obtain ⟨u, u', hu, hu', hv⟩ := acceptStart_view_congr s.port.cmd (s := s.sample) (s' := s'.sample) hcfg
  have hstep := (step_of_start hr hs hp).trans hu
  have hstep' := (step_of_start (hport ▸ hr) (hport ▸ hs) hp').trans (hport ▸ hu')
  obtain ⟨hc, hi⟩ := step_cfg_inputs hstep
  obtain ⟨hc', hi'⟩ := step_cfg_inputs hstep'
  rw [steps_succ_of_step hstep, steps_succ_of_step hstep']
  exact steps_view_congr hv (by rw [hc, hc', hcfg]) (by rw [hi, hi', hin])

end Sys2Proof.Machine

/-!
The conversions, the pair as an integer and its two shifts (files 20, 40, 41), then the obligations.
-/
namespace Sys2Proof.Machine

/-! ### The value an `n`-bit register holds (40_two_complement_adder.md R90, R91, R98) -/

theorem decimalToBits_bitsToDecimal {w : Nat} (r : BitVec w) : decimalToBits (bitsToDecimal r) w = r := BitVec.ofInt_toInt

theorem bitsToDecimal_range {w : Nat} (r : BitVec w) :
    -(2 : Int) ^ (w - 1) ≤ bitsToDecimal r ∧ bitsToDecimal r ≤ 2 ^ (w - 1) - 1 :=
  ⟨BitVec.le_toInt r, BitVec.toInt_le⟩

theorem fits_bitsToDecimal {w : Nat} (hw : 1 ≤ w) (r : BitVec w) : fits (bitsToDecimal r) w = true :=
  (fits_iff _ w).2 ⟨hw, bitsToDecimal_range r⟩

theorem held_of_fits {v : Int} {w : Nat} (h : fits v w = true) : held v w = v := by
  obtain ⟨hw, hrange⟩ := (fits_iff v w).1 h
  exact (held_eq_self_iff v hw).2 hrange

/-- Holding an integer changes it by a multiple of `2^w`. -/
theorem dvd_sub_held (v : Int) (w : Nat) : (2 : Int) ^ w ∣ v - held v w := by
  have h : ((2 ^ w : Nat) : Int) ∣ v - v.bmod (2 ^ w) := Int.dvd_self_sub_bmod
  rw [held, bitsToDecimal, decimalToBits, BitVec.toInt_ofInt]
  exact_mod_cast h

/-- A constant added to a register modulo `2^w`. -/
theorem addBits_decimalToBits_right {w : Nat} (x : BitVec w) (v : Int) :
    addBits x (decimalToBits v w) = decimalToBits (bitsToDecimal x + v) w := by
  rw [← addBits_decimalToBits, decimalToBits_bitsToDecimal]

/-! ### The pair as a signed integer (20_memory.md R53) -/

theorem bitsToDecimal_pair {w : Nat} (a q : BitVec w) :
    bitsToDecimal (pair a q) = bitsToDecimal a * 2 ^ w + uval q := by
  rw [bitsToDecimal, pair, BitVec.toInt_append, bitsToDecimal, uval]
  split
  next h =>
    obtain rfl : w = 0 := by simpa using h
    simp [BitVec.of_length_zero]
  next => rw [mul_comm]

theorem pair_msb {w : Nat} (a q : BitVec w) : (pair a q).msb = a.getLsbD (w - 1) := by
  rw [pair, BitVec.msb_append, BitVec.msb_eq_getLsbD_last, BitVec.msb_eq_getLsbD_last]
  split
  next h => subst h; simp [BitVec.of_length_zero]
  next => rfl

/-- Every bit of a pair shifted right is the next bit of the pair, and the top one is the sign. -/
theorem pair_asrPair {w : Nat} (a q : BitVec w) : pair (asrPairA a) (asrPairQ a q) = (pair a q).sshiftRight 1 := by
  refine BitVec.eq_of_getLsbD_eq fun i hi => ?_
  have hin : ¬ w + w ≤ i := by omega
  rw [BitVec.getLsbD_sshiftRight, pair_msb, decide_eq_false hin, Bool.not_false, Bool.true_and]
  by_cases hlow : i < w
  · have hnext : 1 + i < w + w := by omega
    rw [getLsbD_pair_of_lt _ _ hlow, if_pos hnext]
    simp [asrPairQ, hlow]
  · obtain ⟨j, rfl⟩ := Nat.exists_eq_add_of_le (not_lt.1 hlow)
    have hnext : 1 + (w + j) = w + (j + 1) := by omega
    rw [getLsbD_pair_add, asrPairA_getLsbD a (by omega), hnext, getLsbD_pair_add]
    have htop : w + (j + 1) < w + w ↔ ¬ j = w - 1 := by omega
    simp only [htop, ite_not]

/-- Every bit of a pair shifted left is the bit before it. -/
theorem pair_shlPair {w : Nat} (a q : BitVec w) : pair (shlPairA a q) (shlPairQ q) = pair a q <<< 1 := by
  refine BitVec.eq_of_getLsbD_eq fun i hi => ?_
  rw [BitVec.getLsbD_shiftLeft, decide_eq_true hi, Bool.true_and]
  by_cases hlow : i < w
  · rw [getLsbD_pair_of_lt _ _ hlow, shlPairQ_getLsbD q hlow, getLsbD_pair_of_lt _ _ (by omega)]
    by_cases hzero : i = 0 <;> simp [hzero]
  · obtain ⟨j, rfl⟩ := Nat.exists_eq_add_of_le (not_lt.1 hlow)
    have hprev : w + j - 1 = w - 1 + j := by omega
    have hpos : ¬ w + j < 1 := by omega
    rw [getLsbD_pair_add, decide_eq_false hpos, hprev]
    simp [shlPairA, show j < w by omega]

theorem bitsToDecimal_pair_asrPair {w : Nat} (a q : BitVec w) :
    bitsToDecimal (pair (asrPairA a) (asrPairQ a q)) = bitsToDecimal (pair a q) / 2 := by
  rw [pair_asrPair, bitsToDecimal, BitVec.toInt_sshiftRight, Int.shiftRight_eq_div_pow]
  rfl

theorem uval_pair_shlPair {w : Nat} (a q : BitVec w) :
    uval (pair (shlPairA a q) (shlPairQ q)) = 2 * uval (pair a q) % 2 ^ (2 * w) := by
  rw [pair_shlPair, uval, BitVec.toNat_shiftLeft, Nat.shiftLeft_eq, pow_one, Nat.mul_comm, two_mul w, uval]

/-- The signed pair is doubled too, as long as the result is in its range. -/
theorem bitsToDecimal_pair_shlPair {w : Nat} (hw : 1 ≤ w) {a q : BitVec w}
    (hlow : -(2 : Int) ^ (w + w - 1) ≤ 2 * bitsToDecimal (pair a q))
    (hhigh : 2 * bitsToDecimal (pair a q) ≤ 2 ^ (w + w - 1) - 1) :
    bitsToDecimal (pair (shlPairA a q) (shlPairQ q)) = 2 * bitsToDecimal (pair a q) := by
  have hdouble : pair a q <<< 1 = decimalToBits (2 * bitsToDecimal (pair a q)) (w + w) := by
    rw [two_mul, ← addBits_decimalToBits, decimalToBits_bitsToDecimal, addBits]
    refine BitVec.eq_of_toNat_eq ?_
    rw [BitVec.toNat_shiftLeft, BitVec.toNat_add, Nat.shiftLeft_eq, pow_one, Nat.mul_two]
  rw [pair_shlPair, hdouble]
  exact (held_eq_self_iff _ (by omega)).2 ⟨hlow, hhigh⟩

/-! ### The obligations -/

/-- Settles O23: negation is its own inverse, the conversions invert each other on the range, and what a register holds
is in it. -/
theorem conversionsAndNegationRoundTrip : Obligations.ConversionsAndNegationRoundTrip := by
  intro w hw
  refine ⟨fun x => ?negation, decimalToBits_bitsToDecimal, fun v => held_of_fits,
    fun v => ⟨fits_bitsToDecimal hw _, Int.emod_eq_zero_of_dvd (dvd_sub_held v w)⟩⟩
  case negation => rw [negateBits_eq_neg, negateBits_eq_neg, neg_neg]

/-- Settles O28: the pair shifts are the library's shifts of the pair by one. -/
theorem pairShiftsHalveAndDouble : Obligations.PairShiftsHalveAndDouble := fun _ a q _ =>
  ⟨bitsToDecimal_pair_asrPair a q, uval_pair_shlPair a q⟩

end Sys2Proof.Machine

/-!
A run with an invariant of its own from the accepted start to `DONE` (10_state.md R31, R41), and with it the law of
`DIVNR` (44_non_restoring_divider.md R157, R158).
-/
namespace Sys2Proof.Machine

/-! ### What every cycle keeps holds at the finish step -/

/-- A property that the start of a run has and every cycle keeps holds of the state before the finish step. -/
theorem steps_to_finish {I : State → Prop} {k lim : Nat} {s : State} (hp : s.phase = .run) (hl : limit s = some lim)
    (hk : s.cnt + k = lim) (hn : NoReset (k + 1) s) (hI : I s)
    (hcycle : ∀ u, limit u = some lim → u.cnt < lim → I u → I (cycleStep u.sample)) :
    ∃ u, I u ∧ u.cnt = lim ∧ steps (k + 1) s = .next (finishStep u.sample) := by
  induction k generalizing s with
  | zero =>
    obtain rfl : s.cnt = lim := hk
    obtain ⟨hr, -⟩ := noReset_succ (t := s.sample) hn rfl
    exact ⟨s, hI, rfl, steps_one_of_step (by rw [step_of_run hr hp, runStep_of_eq (s := s.sample) hl])⟩
  | succ k ih =>
    have hlt : s.cnt < lim := by omega
    obtain ⟨hr, hn'⟩ := noReset_succ (t := cycleStep s.sample) hn (by simp)
    obtain ⟨hl', hcnt⟩ := cycleStep_limit_cnt (s := s.sample) hl
    have hstep : step s = .next (cycleStep s.sample) := by
      rw [step_of_run hr hp, runStep_of_lt (s := s.sample) hl hlt]
    rw [steps_succ_of_step hstep]
    exact ih (by simpa using hp) hl' (by rw [hcnt, sample_cnt]; omega) hn' (hcycle s hl hlt hI)

/-- The run of a clean start: `LIM` cycles that keep the property, and the finish step. -/
theorem steps_of_acceptsCleanly {I : State → Prop} {lim : Nat} {s : State} {i : Instr} (h : AcceptsCleanly s i)
    (hc : i.command = .mul ∨ i.command = .divr ∨ i.command = .divnr) (hl : limit (loadOf i s.sample) = some lim)
    (hn : NoReset (lim + 2) s) (hI : I (loadOf i s.sample))
    (hcycle : ∀ u, limit u = some lim → u.cnt < lim → I u → I (cycleStep u.sample)) :
    ∃ u, I u ∧ u.cnt = lim ∧ steps (lim + 2) s = .next (finishStep u.sample) := by
  have hstep := step_of_acceptsCleanly h
  obtain ⟨hphase, hcnt⟩ := loadOf_phase_cnt hc s.sample
  rw [steps_succ_of_step hstep]
  exact steps_to_finish hphase hl (by omega) (noReset_succ hn (by simp)).2 hI hcycle

/-! ### The law of `DIVNR` (44_non_restoring_divider.md R157, R158) -/

/-- A run of `DIVNR a, b`: the operands as the load wrote them, and the remainder so far. -/
structure DivnrRun (a b : Int) (s : State) : Prop where
  opr       : s.opr = .divnr
  sa        : s.sa = isNegative a
  sb        : s.sb = isNegative b
  v         : s.v = a.natAbs
  d         : s.d = b.natAbs
  nb        : s.nb = nbits a.natAbs
  remainder : DivnrRemainder s

theorem divnrRun_loadDivnr {b : Int} (hb : b ≠ 0) (a : Int) (s : State) : DivnrRun a b (loadDivnr a b s) :=
  ⟨rfl, rfl, rfl, rfl, rfl, rfl, divnrRemainder_loadDivnr hb s⟩

theorem DivnrRun.cycle {a b : Int} {s : State} (h : DivnrRun a b s) (hlt : s.cnt < nbits a.natAbs) :
    DivnrRun a b (cycleStep s.sample) := by
  rw [cycleStep_of_divnr (s := s.sample) h.opr]
  exact ⟨h.opr, h.sa, h.sb, h.v, h.d, h.nb, h.remainder.sample.cycle (h.nb ▸ hlt)⟩

/-- At the end `QM` and the corrected remainder divide the magnitudes. -/
theorem DivnrRun.division {a b : Int} {s : State} (h : DivnrRun a b s) (hcnt : s.cnt = nbits a.natAbs) :
    s.qm = a.natAbs / b.natAbs ∧ divnrCorrect s.r s.d = ((a.natAbs % b.natAbs : Nat) : Int) := by
  obtain ⟨hid, hlow, hhigh⟩ := h.remainder.division (by rw [hcnt, h.nb])
  rw [h.v, h.d] at hid
  rw [h.d] at hhigh hlow ⊢
  have hdiv := (Int.ediv_emod_unique (a := (a.natAbs : Int)) (r := divnrCorrect s.r b.natAbs) (q := s.qm)
    (lt_of_le_of_lt hlow hhigh)).2 ⟨by rw [hid]; ring, hlow, hhigh⟩
  obtain ⟨hq, hr⟩ := hdiv
  exact ⟨by exact_mod_cast hq.symm, by rw [← hr]; norm_cast⟩

/-- The sign of a quotient is the product of the signs of its operands. -/
theorem quotientSign_eq (a b : Int) :
    (if (a < 0 ↔ b < 0) then 1 else -1 : Int) = (if a < 0 then -1 else 1) * (if b < 0 then -1 else 1) := by
  by_cases ha : a < 0 <;> by_cases hb : b < 0 <;> simp [ha, hb]

theorem signedQuotient_isNegative (a b : Int) (qm : Nat) :
    signedQuotient (isNegative a) (isNegative b) qm = (if (a < 0 ↔ b < 0) then 1 else -1) * (qm : Int) := by
  by_cases ha : a < 0 <;> by_cases hb : b < 0 <;> simp [signedQuotient, isNegative, ha, hb]

theorem natAbs_eq_sign_mul (a : Int) : (a.natAbs : Int) = (if a < 0 then -1 else 1) * a := by
  split <;> omega

/-- The division of the magnitudes as one of the signed operands. -/
theorem signed_identity {a b q r : Int} (h : (a.natAbs : Int) = b.natAbs * q + r) :
    a = b * ((if (a < 0 ↔ b < 0) then 1 else -1) * q) + (if a < 0 then -1 else 1) * r := by
  have hsquare : (if a < 0 then -1 else 1 : Int) * (if a < 0 then -1 else 1) = 1 := by split <;> rfl
  rw [natAbs_eq_sign_mul a, natAbs_eq_sign_mul b] at h
  rw [quotientSign_eq]
  linear_combination (if a < 0 then -1 else 1) * h - a * hsquare

/-! ### The obligation -/

/-- Settles O51: the run ends with the division of the magnitudes, and the outputs put the signs on. -/
theorem divnrGivesQuotientAndRemainder : Obligations.DivnrGivesQuotientAndRemainder := by
  intro s a b hc hn
  have hb := divisor_ne_zero_of_clean hc.2
  obtain ⟨u, hu, hcnt, hsteps⟩ := steps_of_acceptsCleanly (I := DivnrRun a b) hc (.inr (.inr rfl)) rfl hn
    (divnrRun_loadDivnr hb a s.sample) fun u _ hlt hu => hu.cycle hlt
  obtain ⟨hq, hr⟩ := hu.division hcnt
  rw [finishStep_of_divnr (s := u.sample) hu.opr] at hsteps
  obtain ⟨hdec0, hdec1⟩ := dec_of_done (divnrFinish_phase u.sample)
  have hval0 : dec0Value (divnrFinish u.sample) =
      (if (a < 0 ↔ b < 0) then 1 else -1) * ((a.natAbs / b.natAbs : Nat) : Int) := by
    simp [dec0Value, hu.opr, hu.sa, hu.sb, signedQuotient_isNegative, hq]
  have hval1 : dec1Value (divnrFinish u.sample) = ((a.natAbs % b.natAbs : Nat) : Int) := by
    simpa [dec1Value, hu.opr] using hr
  have hlt : a.natAbs % b.natAbs < b.natAbs := Nat.mod_lt _ (Int.natAbs_pos.2 hb)
  have hdiv : (a.natAbs : Int) = b.natAbs * ((a.natAbs / b.natAbs : Nat) : Int) + ((a.natAbs % b.natAbs : Nat) : Int) := by
    exact_mod_cast (Nat.div_add_mod a.natAbs b.natAbs).symm
  exact ⟨_, _, _, hsteps, rfl, hdec0.trans (congrArg some hval0), hdec1.trans (congrArg some hval1), rfl, rfl,
    Int.natCast_nonneg _, by exact_mod_cast hlt, signed_identity hdiv⟩

end Sys2Proof.Machine

/-!
The law of `MUL` (42_booth_multiplier.md R120, R121): after `k` cycles the pair holds the multiplicand times the signed
reading of the multiplier's low `k` bits, above the multiplier's bits still to come.
-/
namespace Sys2Proof.Machine

/-! ### The multiplier's bits as the cycles read them -/

/-- Bit `i` of an integer. -/
def intBit (v : Int) (i : Nat) : Bool := decide (v / 2 ^ i % 2 = 1)

/-- What `X` holds after `k` cycles: the last bit read, at first 0 (R115, R116). -/
def lastBit (v : Int) : Nat → Bool
  | 0     => false
  | k + 1 => intBit v k

theorem getLsbD_decimalToBits_eq_intBit (v : Int) {i w : Nat} (h : i < w) :
    (decimalToBits v w).getLsbD i = intBit v i := by
  rw [Bool.eq_iff_iff, decimalToBits_getLsbD v h, intBit, decide_eq_true_iff]

theorem toInt_intBit (v : Int) (i : Nat) : (intBit v i).toInt = v / 2 ^ i % 2 := by
  unfold intBit
  rcases Int.emod_two_eq_zero_or_one (v / 2 ^ i) with h | h <;> simp [h, Bool.toInt]

theorem ediv_two_pow_succ (v : Int) (k : Nat) : v / 2 ^ (k + 1) = v / 2 ^ k / 2 := by
  rw [pow_succ, Int.ediv_ediv_of_nonneg (by positivity)]

theorem emod_two_pow_succ (v : Int) (k : Nat) : v % 2 ^ (k + 1) = v % 2 ^ k + (v / 2 ^ k % 2) * 2 ^ k := by
  have hlow := Int.mul_ediv_add_emod v (2 ^ k)
  have hall := Int.mul_ediv_add_emod v (2 ^ (k + 1))
  have hbit := Int.mul_ediv_add_emod (v / 2 ^ k) 2
  rw [ediv_two_pow_succ, pow_succ] at hall
  rw [pow_succ]
  linear_combination hall - hlow - 2 ^ k * hbit

/-- The signed reading of the low `k` bits: the last of them counts negatively. -/
theorem held_eq_sub_lastBit (v : Int) (k : Nat) : held v k = v % 2 ^ k - (lastBit v k).toInt * 2 ^ k := by
  rw [held, bitsToDecimal_eq_ite_msb, uval_decimalToBits]
  cases k with
  | zero => simp [lastBit, Bool.toInt]
  | succ k =>
    rw [Nat.add_sub_cancel, getLsbD_decimalToBits_eq_intBit v (Nat.lt_succ_self k), lastBit]
    cases intBit v k <;> simp [Bool.toInt]

/-- Booth's recoding: one more bit adds the difference of the last bit and the new one, at the new bit's place. -/
theorem held_succ (v : Int) (k : Nat) :
    held v (k + 1) = held v k + ((lastBit v k).toInt - (intBit v k).toInt) * 2 ^ k := by
  rw [held_eq_sub_lastBit, held_eq_sub_lastBit, emod_two_pow_succ, lastBit, toInt_intBit, pow_succ]
  ring

/-! ### One cycle (R116, R117) -/

/-- The decision table adds the multiplicand times the difference of `X` and `Q[0]`, modulo `2^n`. -/
theorem boothAdd_eq {n : Nat} (a : BitVec n) (mu : Int) (q0 x : Bool) :
    boothAdd a (decimalToBits mu n) (decimalToBits (-mu) n) (boothAction q0 x) =
      decimalToBits (bitsToDecimal a + (x.toInt - q0.toInt) * mu) n := by
  obtain ⟨h00, h01, h10, h11⟩ := boothAdd_table a (decimalToBits mu n) (decimalToBits (-mu) n) q0 x
  cases q0 <;> cases x
  · rw [h00 rfl rfl]; simp [decimalToBits_bitsToDecimal]
  · rw [h01 rfl rfl, addBits_decimalToBits_right]; simp [Bool.toInt]
  · rw [h10 rfl rfl, addBits_decimalToBits_right]; simp [Bool.toInt]
  · rw [h11 rfl rfl]; simp [decimalToBits_bitsToDecimal]

/-- The high half of a pair is in the signed range of `A` when the pair is in its own. -/
theorem high_range {c N y q : Int} (hq : 0 ≤ q) (hqN : q < N) (hlow : -(c * N) ≤ y * N + q) (hhigh : y * N + q < c * N) :
    -c ≤ y ∧ y ≤ c - 1 := by
  constructor
  · by_contra h
    have hmul : (y + 1) * N ≤ -c * N := Int.mul_le_mul_of_nonneg_right (by omega) (by omega)
    nlinarith
  · by_contra h
    have hmul : c * N ≤ y * N := Int.mul_le_mul_of_nonneg_right (by omega) (by omega)
    omega

/-- The multiplicands for which no cycle overflows: the signed range of the register, reflected. -/
def MultiplicandRange (mu : Int) (n : Nat) : Prop := -(2 : Int) ^ (n - 1) < mu ∧ mu ≤ 2 ^ (n - 1)

/-- A factor that keeps off one end and a factor that keeps off the other have a product that keeps off both. -/
theorem mul_range {mu S c p : Int} (hmu : -c < mu ∧ mu ≤ c) (hS : -p ≤ S ∧ S ≤ p - 1) :
    -(c * p) ≤ mu * S ∧ mu * S + 1 ≤ c * p := by
  obtain ⟨hlow, hhigh⟩ := hmu
  obtain ⟨hlow', hhigh'⟩ := hS
  rcases le_total 0 mu with hm | hm
  · exact ⟨by nlinarith, by nlinarith⟩
  · exact ⟨by nlinarith, by nlinarith⟩

/-- The product with a signed reading of `k + 1` bits keeps off both ends. -/
theorem product_range {mu : Int} {n : Nat} (h : MultiplicandRange mu n) (v : Int) (k : Nat) :
    -((2 : Int) ^ (n - 1) * 2 ^ k) ≤ mu * held v (k + 1) ∧ mu * held v (k + 1) + 1 ≤ 2 ^ (n - 1) * 2 ^ k :=
  mul_range h (bitsToDecimal_range (decimalToBits v (k + 1)))

/-! ### A run of `MUL` (R120) -/

/-- After `k` cycles of `MUL` with the multiplicand `mu` and the multiplier `v`: the pair holds the product so far at its
place above the multiplier's bits to come. -/
structure BoothPair {n : Nat} (mu v : Int) (k : Nat) (a q : BitVec n) (x : Bool) : Prop where
  pair : bitsToDecimal (pair a q) = 2 ^ (n - k) * (mu * held v k) + v % 2 ^ n / 2 ^ k
  x    : x = lastBit v k

theorem boothPair_start (n : Nat) (mu v : Int) : BoothPair mu v 0 (0 : BitVec n) (decimalToBits v n) false where
  pair := by
    have hzero : held v 0 = 0 := by simp [held, bitsToDecimal, BitVec.of_length_zero]
    rw [bitsToDecimal_pair, uval_decimalToBits, hzero]
    simp [bitsToDecimal]
  x := rfl

/-- `Q[0]` is the next bit of the multiplier, since everything above it in the pair is even. -/
theorem BoothPair.q0 {n k : Nat} {mu v : Int} {a q : BitVec n} {x : Bool} (h : BoothPair mu v k a q x) (hk : k < n) :
    q.getLsbD 0 = intBit v k := by
  have hq : q.getLsbD 0 = true ↔ (uval q : Int) % 2 = 1 := by
    rw [← BitVec.testBit_toNat, Nat.testBit_zero, decide_eq_true_iff, uval]
    omega
  have hbit : v % 2 ^ n / 2 ^ k % 2 = v / 2 ^ k % 2 := emod_two_pow_ediv_emod_two v hk
  have heven : (2 : Int) ∣ uval q - v % 2 ^ n / 2 ^ k := by
    have hpair := h.pair
    rw [bitsToDecimal_pair] at hpair
    have hdiff : uval q - v % 2 ^ n / 2 ^ k = 2 ^ (n - k) * (mu * held v k) - bitsToDecimal a * 2 ^ n := by
      linear_combination hpair
    rw [hdiff]
    exact ((dvd_pow_self 2 (by omega)).mul_right _).sub ((dvd_pow_self 2 (by omega)).mul_left _)
  rw [Bool.eq_iff_iff, hq, intBit, decide_eq_true_iff, ← hbit]
  omega

/-- The sum before the shift. -/
theorem BoothPair.sum {n k : Nat} {mu v : Int} {a q : BitVec n} {x : Bool} (h : BoothPair mu v k a q x) (hk : k < n) :
    (bitsToDecimal a + (x.toInt - (q.getLsbD 0).toInt) * mu) * 2 ^ n + uval q =
      2 ^ (n - k) * (mu * held v (k + 1)) + v % 2 ^ n / 2 ^ k := by
  have hsplit : (2 : Int) ^ n = 2 ^ (n - k) * 2 ^ k := by rw [← pow_add, Nat.sub_add_cancel hk.le]
  have hpair := h.pair
  rw [bitsToDecimal_pair] at hpair
  rw [held_succ, h.q0 hk, h.x]
  linear_combination hpair + ((lastBit v k).toInt - (intBit v k).toInt) * mu * hsplit

/-- The multiplier's bits to come, as an unsigned number. -/
theorem rest_range (v : Int) {n k : Nat} (hk : k ≤ n) : 0 ≤ v % 2 ^ n / 2 ^ k ∧ v % 2 ^ n / 2 ^ k < 2 ^ (n - k) := by
  have hsplit : (2 : Int) ^ (n - k) * 2 ^ k = 2 ^ n := by rw [← pow_add, Nat.sub_add_cancel hk]
  exact ⟨Int.ediv_nonneg (Int.emod_nonneg _ (by positivity)) (by positivity),
    Int.ediv_lt_of_lt_mul (by positivity) (by rw [hsplit]; exact Int.emod_lt_of_pos _ (by positivity))⟩

/-- The sum does not overflow. -/
theorem BoothPair.bitsToDecimal_boothAdd {n k : Nat} {mu v : Int} {a q : BitVec n} {x : Bool}
    (h : BoothPair mu v k a q x) (hk : k < n) (hmu : MultiplicandRange mu n) :
    bitsToDecimal (boothAdd a (decimalToBits mu n) (decimalToBits (-mu) n) (boothAction (q.getLsbD 0) x)) =
      bitsToDecimal a + (x.toInt - (q.getLsbD 0).toInt) * mu := by
  have hsplit : (2 : Int) ^ n = 2 ^ (n - k) * 2 ^ k := by rw [← pow_add, Nat.sub_add_cancel hk.le]
  have hq : (uval q : Int) < 2 ^ n := by exact_mod_cast q.isLt
  obtain ⟨hlow, hhigh⟩ := product_range hmu v k
  obtain ⟨hrest, hrest'⟩ := rest_range v hk.le
  have hscale : (0 : Int) ≤ 2 ^ (n - k) := by positivity
  have hplace : (2 : Int) ^ (n - 1) * 2 ^ n = 2 ^ (n - k) * (2 ^ (n - 1) * 2 ^ k) := by rw [hsplit]; ring
  rw [boothAdd_eq]
  refine (held_eq_self_iff _ (by omega)).2 (high_range (Int.natCast_nonneg (uval q)) hq ?_ ?_)
  · rw [h.sum hk, hplace]
    linarith [mul_le_mul_of_nonneg_left hlow hscale]
  · rw [h.sum hk, hplace]
    linarith [mul_le_mul_of_nonneg_left hhigh hscale]

/-- The shift halves the sum, dropping the multiplier bit just read. -/
theorem BoothPair.cycle {n k : Nat} {mu v : Int} {a q : BitVec n} {x : Bool} (h : BoothPair mu v k a q x) (hk : k < n)
    (hmu : MultiplicandRange mu n) {a1 : BitVec n}
    (ha1 : a1 = boothAdd a (decimalToBits mu n) (decimalToBits (-mu) n) (boothAction (q.getLsbD 0) x)) :
    BoothPair mu v (k + 1) (asrPairA a1) (asrPairQ a1 q) (asrPairX q) where
  pair := by
    have hexp : n - k = n - (k + 1) + 1 := by omega
    rw [bitsToDecimal_pair_asrPair, bitsToDecimal_pair, ha1, h.bitsToDecimal_boothAdd hk hmu, h.sum hk, hexp, pow_succ,
      mul_comm _ (2 : Int), mul_assoc, add_comm, Int.add_mul_ediv_left _ _ two_ne_zero, ← ediv_two_pow_succ, add_comm]
  x := h.q0 hk

/-- A run of `MUL` with the multiplicand register `mu` modulo `2^n`. -/
structure BoothRun (n : Nat) (mu v : Int) (s : State) : Prop where
  opr : s.opr = .mul
  dp  : ∃ a q, s.dp = ⟨n, a, q, decimalToBits mu n, decimalToBits (-mu) n⟩ ∧ BoothPair mu v s.cnt a q s.x

theorem BoothRun.cycle {n : Nat} {mu v : Int} {s : State} (h : BoothRun n mu v s) (hlt : s.cnt < n)
    (hmu : MultiplicandRange mu n) : BoothRun n mu v (cycleStep s.sample) := by
  obtain ⟨ho, a, q, hdp, hpair⟩ := h
  have hdp' : (mulCycle s.sample).dp =
      mulDatapath ⟨n, a, q, decimalToBits mu n, decimalToBits (-mu) n⟩ s.x := congrArg (mulDatapath · s.x) hdp
  have hx' : (mulCycle s.sample).x = asrPairX q := by rw [mulCycle_x, sample_dp, hdp]
  rw [cycleStep_of_mul (s := s.sample) ho]
  refine ⟨ho, _, _, hdp', ?_⟩
  rw [hx']
  exact hpair.cycle hlt hmu rfl

theorem boothRun_loadMul {n : Nat} {mu a : Int} (ha : decimalToBits a n = decimalToBits mu n) (b : Int) (s : State) :
    BoothRun n mu b (loadMul n a b s) :=
  ⟨rfl, _, _, by rw [loadMul_dp, ha, negateBits_decimalToBits], boothPair_start n mu b⟩

/-- What the outputs show at the end: all bits of the multiplier are read. -/
theorem BoothRun.outputs {n : Nat} {mu v : Int} {s : State} (h : BoothRun n mu v s) (hcnt : s.cnt = n) (hn : 1 ≤ n) :
    dec0 (mulFinish s) = some (mu * held v n) ∧ dec1 (mulFinish s) = some 0 ∧
      rx (mulFinish s) = some ((decimalToBits v n).getLsbD (n - 1)) := by
  obtain ⟨ho, a, q, hdp, hpair⟩ := h
  obtain ⟨hdec0, hdec1⟩ := dec_of_done (mulFinish_phase s)
  obtain ⟨-, -, hrx⟩ := bits_of_shown (s := mulFinish s) (.inr rfl) (by simp [ho])
  refine ⟨?product, ?zero, ?lastBit⟩
  case product =>
    have hval : dec0Value (mulFinish s) = bitsToDecimal (pair s.dp.a s.dp.q) := by simp [dec0Value, ho]
    have hrest : v % 2 ^ n / 2 ^ n = 0 :=
      Int.ediv_eq_zero_of_lt (Int.emod_nonneg _ (by positivity)) (Int.emod_lt_of_pos _ (by positivity))
    have hprod := hpair.pair
    rw [hcnt, hrest, Nat.sub_self, pow_zero, one_mul, add_zero] at hprod
    rw [hdec0, hval, hdp, hprod]
  case zero => simp [hdec1, dec1Value, ho]
  case lastBit =>
    obtain ⟨m, rfl⟩ := Nat.exists_eq_add_of_le' hn
    rw [hrx, mulFinish_x, hpair.x, hcnt, Nat.add_sub_cancel, getLsbD_decimalToBits_eq_intBit v (Nat.lt_succ_self m),
      lastBit]

/-- The law of `MUL` for any multiplicand that no cycle overflows with and that the register holds modulo `2^n`. -/
theorem mul_law {s : State} {g : Bool} {n : Nat} {a b mu : Int} (hc : AcceptsCleanly s (.mul g n a b))
    (hn : NoReset (n + 2) s) (ha : decimalToBits a n = decimalToBits mu n) (hmu : MultiplicandRange mu n) :
    ∃ t, steps (n + 2) s = .next t ∧ t.phase = .done ∧ dec0 t = some (mu * held b n) ∧ dec1 t = some 0 ∧
      rx t = some ((decimalToBits b n).getLsbD (n - 1)) := by
  obtain ⟨u, hu, hcnt, hsteps⟩ := steps_of_acceptsCleanly (I := BoothRun n mu b) hc (.inl rfl) rfl hn
    (boothRun_loadMul ha b s.sample) fun u _ hlt hu => hu.cycle hlt hmu
  obtain ⟨h1, -⟩ := width_of_wellFormed (wellFormed_of_clean hc.2) rfl
  rw [finishStep_of_mul (s := u.sample) hu.opr] at hsteps
  exact ⟨_, hsteps, rfl, BoothRun.outputs (s := u.sample) ⟨hu.opr, hu.dp⟩ hcnt h1⟩

/-! ### The obligations -/

/-- Settles O38: the multiplicand is the register's value, which is above the minimum. -/
theorem mulGivesTheProduct : Obligations.MulGivesTheProduct := by
  intro s g n a b hc hn hne
  obtain ⟨hlow, hhigh⟩ := bitsToDecimal_range (decimalToBits a n)
  exact mul_law hc hn (decimalToBits_bitsToDecimal _).symm ⟨lt_of_le_of_ne hlow (Ne.symm hne), by rw [held]; omega⟩

/-- Settles O39: the register of the minimum also holds its opposite, `2^(n-1)`, and the cycles compute with that. -/
theorem mulOfTheMostNegativeMultiplicand : Obligations.MulOfTheMostNegativeMultiplicand := by
  intro s g n a b hc hn hmin
  obtain ⟨h1, -⟩ := width_of_wellFormed (wellFormed_of_clean hc.2) rfl
  have hreg : decimalToBits a n = BitVec.intMin n := (bitsToDecimal_eq_min_iff h1 _).1 hmin
  have ha : decimalToBits a n = decimalToBits (-held a n) n := by
    rw [← negateBits_decimalToBits, held, decimalToBits_bitsToDecimal, hreg, negateBits_intMin]
  have hmu : MultiplicandRange (-held a n) n := by
    rw [hmin, neg_neg]
    exact ⟨by linarith [pow_pos (two_pos : (0 : Int) < 2) (n - 1)], le_rfl⟩
  obtain ⟨t, hsteps, hdone, hdec0, -⟩ := mul_law hc hn ha hmu
  exact ⟨t, hsteps, hdone, by rw [hdec0, neg_mul]⟩

theorem fits_of_guard {c : Config} {n : Nat} {a b : Int} (hc : entryCheck c (.mul true n a b) = .none) :
    fits a (n - 1) = true ∧ fits b (n - 1) = true := by
  obtain ⟨-, -, hguard⟩ := (entryCheck_eq_none_iff _ _).1 hc
  simpa [guardFails] using hguard

/-- An operand with its safety bit is held as it is, and is not the minimum. -/
theorem held_of_fits_pred {v : Int} {n : Nat} (h : fits v (n - 1) = true) :
    held v n = v ∧ v ≠ -(2 : Int) ^ (n - 1) := by
  obtain ⟨hw, hlow, hhigh⟩ := (fits_iff _ _).1 h
  have hdouble : (2 : Int) ^ (n - 1) = 2 * 2 ^ (n - 1 - 1) := by rw [← pow_succ', Nat.sub_add_cancel hw]
  have hpos : (0 : Int) < 2 ^ (n - 1 - 1) := by positivity
  exact ⟨(held_eq_self_iff v (by omega)).2 ⟨by omega, by omega⟩, by omega⟩

/-- Settles O40: the guard leaves operands that the registers hold, with a multiplicand above the minimum. -/
theorem guardedMulIsExact : Obligations.GuardedMulIsExact := by
  intro s n a b hc hn
  obtain ⟨hfa, hfb⟩ := fits_of_guard hc.2
  obtain ⟨ha, hne⟩ := held_of_fits_pred hfa
  obtain ⟨hb, -⟩ := held_of_fits_pred hfb
  obtain ⟨t, hsteps, hdone, hdec0, -⟩ := mulGivesTheProduct s true n a b hc hn (ha.symm ▸ hne)
  exact ⟨t, hsteps, hdone, by rw [hdec0, ha, hb]⟩

end Sys2Proof.Machine

/-!
The laws of `DIVR` (43_restoring_divider.md R135 to R139): a run with an invariant on its pair of registers, the trial
and the cycle as integer arithmetic, the division they make, then the obligations.
-/
namespace Sys2Proof.Machine

/-! ### A run of `DIVR` and its outputs (R130, R132) -/

/-- A run of `DIVR a, b, n` whose pair after `k` cycles is as `I k` says. -/
structure DivrRun (n : Nat) (a b : Int) (I : Nat → BitVec n → BitVec n → Prop) (s : State) : Prop where
  opr : s.opr = .divr
  sa  : s.sa = isNegative a
  sb  : s.sb = isNegative b
  dp  : ∃ acc q, s.dp = ⟨n, acc, q, decimalToBits b n, negateBits (decimalToBits b n)⟩ ∧ I s.cnt acc q

/-- `I` is kept by the cycles of a division by `b`. -/
def KeptByDivrCycle (n : Nat) (b : Int) (I : Nat → BitVec n → BitVec n → Prop) : Prop :=
  ∀ k acc q, k < n → I k acc q → ∃ acc' q',
    divrDatapath ⟨n, acc, q, decimalToBits b n, negateBits (decimalToBits b n)⟩ =
      ⟨n, acc', q', decimalToBits b n, negateBits (decimalToBits b n)⟩ ∧ I (k + 1) acc' q'

theorem DivrRun.cycle {n : Nat} {a b : Int} {I : Nat → BitVec n → BitVec n → Prop} {s : State} (h : DivrRun n a b I s)
    (hlt : s.cnt < n) (hI : KeptByDivrCycle n b I) : DivrRun n a b I (cycleStep s.sample) := by
  obtain ⟨ho, hsa, hsb, acc, q, hdp, hpair⟩ := h
  obtain ⟨acc', q', hcycle, hpair'⟩ := hI s.cnt acc q hlt hpair
  rw [cycleStep_of_divr (s := s.sample) ho]
  exact ⟨ho, hsa, hsb, acc', q', by rw [divrCycle_dp, sample_dp, hdp, hcycle], hpair'⟩

/-- The outputs after the finish step: `A`, and `Q` negated when the signs of the operands as supplied differ. -/
theorem DivrRun.outputs {n : Nat} {a b : Int} {I : Nat → BitVec n → BitVec n → Prop} {s : State}
    (h : DivrRun n a b I s) : ∃ acc q, I s.cnt acc q ∧
      dec0 (divrFinish s) = some (bitsToDecimal (if (a < 0 ↔ b < 0) then q else negateBits q)) ∧
      dec1 (divrFinish s) = some (bitsToDecimal acc) := by
  obtain ⟨ho, hsa, hsb, acc, q, hdp, hpair⟩ := h
  obtain ⟨hdec0, hdec1⟩ := dec_of_done (divrFinish_phase s)
  have hval0 : dec0Value (divrFinish s) = bitsToDecimal (divrFinish s).dp.q := by simp [dec0Value, ho]
  have hval1 : dec1Value (divrFinish s) = bitsToDecimal (divrFinish s).dp.a := by simp [dec1Value, ho]
  have hsign : s.sa = s.sb ↔ (a < 0 ↔ b < 0) := by rw [hsa, hsb, Bool.eq_iff_iff, isNegative_iff, isNegative_iff]
  refine ⟨acc, q, hpair, ?_⟩
  rw [hdec0, hdec1, hval0, hval1, divrFinish_dp, hdp]
  by_cases hs : s.sa = s.sb
  · rw [divrCorrect_of_eq _ hs, if_pos (hsign.1 hs)]
    exact ⟨rfl, rfl⟩
  · rw [divrCorrect_of_ne _ hs, if_neg (mt hsign.2 hs)]
    exact ⟨rfl, rfl⟩

/-- Every clean run of `DIVR`, with the invariant of its pair chosen. -/
theorem divr_run {n : Nat} {I : Nat → BitVec n → BitVec n → Prop} {s : State} {g : Bool} {a b : Int}
    (hc : AcceptsCleanly s (.divr g n a b)) (hn : NoReset (n + 2) s)
    (hstart : I 0 (divrAccumulator s.cfg.divrAInit (decimalToBits a n)) (decimalToBits a n))
    (hI : KeptByDivrCycle n b I) :
    ∃ t acc q, steps (n + 2) s = .next t ∧ t.phase = .done ∧ I n acc q ∧
      dec0 t = some (bitsToDecimal (if (a < 0 ↔ b < 0) then q else negateBits q)) ∧
      dec1 t = some (bitsToDecimal acc) := by
  obtain ⟨u, hu, hcnt, hsteps⟩ := steps_of_acceptsCleanly (I := DivrRun n a b I) (lim := n) hc (.inr (.inl rfl)) rfl hn
    ⟨rfl, rfl, rfl, _, _, rfl, hstart⟩ fun u _ hlt hu => hu.cycle hlt hI
  rw [finishStep_of_divr (s := u.sample) hu.opr] at hsteps
  obtain ⟨acc, q, hpair, hdec0, hdec1⟩ := DivrRun.outputs (s := u.sample) ⟨hu.opr, hu.sa, hu.sb, hu.dp⟩
  exact ⟨_, acc, q, hsteps, rfl, hcnt ▸ hpair, hdec0, hdec1⟩

/-! ### The trial as integer arithmetic (R131 step 3) -/

theorem msb_iff_neg {w : Nat} (x : BitVec w) : x.msb = true ↔ bitsToDecimal x < 0 := by
  rw [BitVec.msb_eq_toInt, decide_eq_true_iff, bitsToDecimal]

theorem msb_eq_iff {w : Nat} (x y : BitVec w) : x.msb = y.msb ↔ (bitsToDecimal x < 0 ↔ bitsToDecimal y < 0) := by
  rw [Bool.eq_iff_iff, msb_iff_neg, msb_iff_neg]

/-- Modulo `2^n`, what the trial adds has the sign opposite to that of the shifted `A`. -/
theorem divrTrial_eq {n : Nat} (a1 m : BitVec n) :
    divrTrial a1 m (negateBits m) =
      decimalToBits (if bitsToDecimal a1 < 0 then bitsToDecimal a1 + (bitsToDecimal m).natAbs
        else bitsToDecimal a1 - (bitsToDecimal m).natAbs) n := by
  have hneg : negateBits m = decimalToBits (-bitsToDecimal m) n := by
    rw [← negateBits_decimalToBits, decimalToBits_bitsToDecimal]
  have hm : m = decimalToBits (bitsToDecimal m) n := (decimalToBits_bitsToDecimal m).symm
  by_cases hsame : a1.msb = m.msb
  · rw [divrTrial_of_msb_eq _ hsame, hneg, addBits_decimalToBits_right]
    rw [msb_eq_iff] at hsame
    congr 1
    split <;> omega
  · rw [divrTrial_of_msb_ne _ hsame]
    conv_lhs => rw [hm, addBits_decimalToBits_right]
    rw [msb_eq_iff] at hsame
    congr 1
    split <;> omega

/-- The trial moves the shifted `A` towards zero by the divisor's magnitude, whatever the divisor's sign. -/
theorem bitsToDecimal_divrTrial {n : Nat} (hn : 1 ≤ n) (a1 m : BitVec n) :
    bitsToDecimal (divrTrial a1 m (negateBits m)) =
      if bitsToDecimal a1 < 0 then bitsToDecimal a1 + (bitsToDecimal m).natAbs
      else bitsToDecimal a1 - (bitsToDecimal m).natAbs := by
  obtain ⟨ha, ha'⟩ := bitsToDecimal_range a1
  obtain ⟨hm, hm'⟩ := bitsToDecimal_range m
  rw [divrTrial_eq]
  exact (held_eq_self_iff _ hn).2 (by split <;> omega)

/-- The shift has left 0 in bit 0 of `Q`, so setting it adds one. -/
theorem uval_shlPairQ_or_one {n : Nat} (hn : 1 ≤ n) (q : BitVec n) :
    uval (shlPairQ q ||| BitVec.ofNat n 1) = uval (shlPairQ q) + 1 := by
  have hone : 1 % 2 ^ n = 1 := Nat.mod_eq_of_lt (Nat.one_lt_two_pow (by omega))
  have hbit : (uval (shlPairQ q)).testBit 0 = false := by
    rw [uval, BitVec.testBit_toNat, shlPairQ_getLsbD q (by omega), if_pos rfl]
  have heven : uval (shlPairQ q) = 2 ^ 1 * (uval (shlPairQ q) / 2) := by
    rw [Nat.testBit_zero, decide_eq_false_iff_not] at hbit
    omega
  have hor : uval (shlPairQ q ||| BitVec.ofNat n 1) = uval (shlPairQ q) ||| 1 := by
    rw [uval, BitVec.toNat_or, BitVec.toNat_ofNat, hone, uval]
  rw [hor, heven, ← Nat.two_pow_add_eq_or_of_lt (by decide)]

/-! ### One cycle (R131) -/

/-- Where the running remainder of a division by `delta` lies: between zero and the divisor, on the divisor's side. -/
def RemainderRange (delta r : Int) : Prop := (0 ≤ r ∧ r < delta) ∨ (delta ≤ r ∧ r < 0)

/-- A shift in of one bit at most doubles the distance from zero. -/
theorem high_of_double {x x1 q q1 N : Int} (h : x1 * N + q1 = 2 * (x * N + q)) (hq : 0 ≤ q) (hqN : q < N) (hq1 : 0 ≤ q1)
    (hq1N : q1 < N) : 2 * x ≤ x1 ∧ x1 ≤ 2 * x + 1 := by
  constructor
  · by_contra hlt
    have hmul : (x1 + 1) * N ≤ 2 * x * N := Int.mul_le_mul_of_nonneg_right (by omega) (by omega)
    nlinarith
  · by_contra hlt
    have hmul : (2 * x + 2) * N ≤ x1 * N := Int.mul_le_mul_of_nonneg_right (by omega) (by omega)
    nlinarith

/-- One cycle on a pair `P` whose double is in range: the pair is doubled, and when the trial keeps the sign the divisor
is taken off its high half and the quotient bit set. -/
theorem divrDatapath_cycle {n : Nat} (hn : 1 ≤ n) {delta : Int} {acc q m : BitVec n}
    (hm : delta.natAbs = (bitsToDecimal m).natAbs) (hacc : RemainderRange delta (bitsToDecimal acc))
    (hlow : -(2 : Int) ^ (n + n - 1) ≤ 2 * bitsToDecimal (pair acc q))
    (hhigh : 2 * bitsToDecimal (pair acc q) ≤ 2 ^ (n + n - 1) - 1) :
    ∃ (acc' q' : BitVec n) (bit : Nat), divrDatapath ⟨n, acc, q, m, negateBits m⟩ = ⟨n, acc', q', m, negateBits m⟩ ∧
      bit ≤ 1 ∧ bitsToDecimal (pair acc' q') = 2 * bitsToDecimal (pair acc q) - bit * (delta * 2 ^ n - 1) ∧
      RemainderRange delta (bitsToDecimal acc') := by
  have hdouble := bitsToDecimal_pair_shlPair hn hlow hhigh
  have htrial := bitsToDecimal_divrTrial hn (shlPairA acc q) m
  rw [← hm] at htrial
  have hbounds := high_of_double (by rw [← bitsToDecimal_pair, ← bitsToDecimal_pair, hdouble])
    (Int.natCast_nonneg (uval q)) (by exact_mod_cast q.isLt) (Int.natCast_nonneg (uval (shlPairQ q)))
    (by exact_mod_cast (shlPairQ q).isLt)
  have htrial' : bitsToDecimal (divrTrial (shlPairA acc q) m (negateBits m)) =
      bitsToDecimal (shlPairA acc q) - delta := by
    rw [htrial]
    unfold RemainderRange at hacc
    split <;> omega
  have hkept := msb_eq_iff (divrTrial (shlPairA acc q) m (negateBits m)) (shlPairA acc q)
  rw [htrial'] at hkept
  unfold RemainderRange at hacc ⊢
  by_cases hkeep : (divrTrial (shlPairA acc q) m (negateBits m)).msb = (shlPairA acc q).msb
  · refine ⟨_, _, 1, divrDatapath_of_msb_eq hkeep, le_rfl, ?_, ?_⟩
    · rw [bitsToDecimal_pair] at hdouble ⊢
      rw [htrial', uval_shlPairQ_or_one hn]
      push_cast
      linear_combination hdouble
    · rw [hkept] at hkeep
      rw [htrial']
      omega
  · refine ⟨shlPairA acc q, shlPairQ q, 0, divrDatapath_of_msb_ne hkeep, Nat.zero_le 1, by rw [hdouble]; simp, ?_⟩
    rw [hkept] at hkeep
    omega

/-! ### The division the cycles make (R135 to R137) -/

/-- After `k` cycles the pair is `2^k` times the pair at the start, less the quotient so far times the divisor at the high
half, with the quotient itself shifted in from below. -/
def DivisionPair {n : Nat} (p0 delta : Int) (k : Nat) (acc q : BitVec n) : Prop :=
  ∃ c : Nat, c < 2 ^ k ∧ bitsToDecimal (pair acc q) = 2 ^ k * p0 - c * (delta * 2 ^ n - 1) ∧
    RemainderRange delta (bitsToDecimal acc)

/-- Why no shift overflows: the pair at the start fits one half, or the divisor is at most a quarter of the range. -/
def ShiftRange (n : Nat) (p0 delta : Int) : Prop :=
  (-(2 : Int) ^ (n - 1) ≤ p0 ∧ p0 < 2 ^ (n - 1)) ∨ (2 ≤ n ∧ (delta.natAbs : Int) ≤ 2 ^ (n - 2))

/-- The high half bounds the pair, and the other way round. -/
theorem pair_bounds {n : Nat} (acc q : BitVec n) :
    bitsToDecimal acc * 2 ^ n ≤ bitsToDecimal (pair acc q) ∧
      bitsToDecimal (pair acc q) < (bitsToDecimal acc + 1) * 2 ^ n := by
  have hq : (uval q : Int) < 2 ^ n := by exact_mod_cast q.isLt
  rw [bitsToDecimal_pair, add_mul, one_mul]
  omega

/-- The quotient so far only brings the pair nearer to zero than the shifted start is. -/
theorem DivisionPair.between {n k : Nat} {p0 delta : Int} {acc q : BitVec n} (h : DivisionPair p0 delta k acc q) :
    (0 ≤ bitsToDecimal (pair acc q) ∧ bitsToDecimal (pair acc q) ≤ 2 ^ k * p0) ∨
      (2 ^ k * p0 ≤ bitsToDecimal (pair acc q) ∧ bitsToDecimal (pair acc q) < 0) := by
  obtain ⟨c, -, hpair, hacc⟩ := h
  have hpos : (0 : Int) < 2 ^ n := by positivity
  have hc : (0 : Int) ≤ c := Int.natCast_nonneg c
  obtain ⟨hlow, hhigh⟩ := pair_bounds acc q
  rcases hacc with ⟨hr, hr'⟩ | ⟨hr, hr'⟩
  · have hstep : 0 ≤ c * (delta * 2 ^ n - 1) := mul_nonneg hc (by nlinarith)
    exact .inl ⟨le_trans (by positivity) hlow, by omega⟩
  · have hstep : 0 ≤ c * (1 - delta * 2 ^ n) := mul_nonneg hc (by nlinarith)
    exact .inr ⟨by linarith, by nlinarith⟩

/-- The running remainder is nearer to zero than the divisor is. -/
theorem DivisionPair.within_divisor {n k : Nat} {p0 delta : Int} {acc q : BitVec n}
    (h : DivisionPair p0 delta k acc q) :
    -((delta.natAbs : Int) * 2 ^ n) ≤ bitsToDecimal (pair acc q) ∧
      bitsToDecimal (pair acc q) < (delta.natAbs : Int) * 2 ^ n := by
  obtain ⟨-, -, -, hacc⟩ := h
  obtain ⟨hlow, hhigh⟩ := pair_bounds acc q
  have hpos : (0 : Int) ≤ 2 ^ n := by positivity
  unfold RemainderRange at hacc
  have hlow' : -(delta.natAbs : Int) * 2 ^ n ≤ bitsToDecimal acc * 2 ^ n :=
    Int.mul_le_mul_of_nonneg_right (by omega) hpos
  have hhigh' : (bitsToDecimal acc + 1) * 2 ^ n ≤ (delta.natAbs : Int) * 2 ^ n :=
    Int.mul_le_mul_of_nonneg_right (by omega) hpos
  exact ⟨by linarith, by linarith⟩

theorem DivisionPair.double_range {n k : Nat} {p0 delta : Int} {acc q : BitVec n} (h : DivisionPair p0 delta k acc q)
    (hk : k < n) (hr : ShiftRange n p0 delta) :
    -(2 : Int) ^ (n + n - 1) ≤ 2 * bitsToDecimal (pair acc q) ∧ 2 * bitsToDecimal (pair acc q) ≤ 2 ^ (n + n - 1) - 1 := by
  have hpos : (0 : Int) < 2 ^ n := by positivity
  have hsplit : (2 : Int) ^ (n + n - 1) = 2 ^ (n - 1) * 2 ^ n := by rw [← pow_add]; congr 1; omega
  rw [hsplit]
  rcases hr with ⟨hp0, hp0'⟩ | ⟨hn, hdelta⟩
  · have hdouble : (2 : Int) * 2 ^ k ≤ 2 ^ n := by
      rw [← pow_succ']
      exact pow_le_pow_right₀ (by norm_num) hk
    have hk0 : (0 : Int) < 2 ^ k := by positivity
    have hhalf : (0 : Int) < 2 ^ (n - 1) := by positivity
    have hscale : (2 : Int) * 2 ^ k * 2 ^ (n - 1) ≤ 2 ^ (n - 1) * 2 ^ n := by
      rw [mul_comm (2 ^ (n - 1) : Int)]
      exact Int.mul_le_mul_of_nonneg_right hdouble hhalf.le
    have hlow : (2 : Int) ^ k * -2 ^ (n - 1) ≤ 2 ^ k * p0 := mul_le_mul_of_nonneg_left hp0 hk0.le
    have hhigh : (2 : Int) ^ k * p0 ≤ 2 ^ k * (2 ^ (n - 1) - 1) :=
      mul_le_mul_of_nonneg_left (Int.le_sub_one_of_lt hp0') hk0.le
    rcases h.between with ⟨hnonneg, hle⟩ | ⟨hge, hneg⟩
    · exact ⟨by nlinarith, by linarith⟩
    · exact ⟨by linarith, by nlinarith⟩
  · have hquarter : (2 : Int) ^ (n - 1) = 2 * 2 ^ (n - 2) := by rw [← pow_succ']; congr 1; omega
    obtain ⟨hlow, hhigh⟩ := h.within_divisor
    have hmul : (delta.natAbs : Int) * 2 ^ n ≤ 2 ^ (n - 2) * 2 ^ n := Int.mul_le_mul_of_nonneg_right hdelta hpos.le
    rw [hquarter, mul_assoc]
    omega

theorem kept_divisionPair {n : Nat} {b p0 delta : Int} (hb : delta.natAbs = (held b n).natAbs)
    (hr : ShiftRange n p0 delta) : KeptByDivrCycle n b (DivisionPair p0 delta) := by
  intro k acc q hk h
  obtain ⟨hlow, hhigh⟩ := h.double_range hk hr
  obtain ⟨c, hc, hpair, hacc⟩ := h
  obtain ⟨acc', q', bit, hcycle, hbit, hpair', hacc'⟩ := divrDatapath_cycle (by omega) hb hacc hlow hhigh
  refine ⟨acc', q', hcycle, 2 * c + bit, by rw [pow_succ]; omega, ?_, hacc'⟩
  rw [hpair', hpair, pow_succ]
  push_cast
  ring

/-- After `n` cycles `A` holds the remainder and `Q` the quotient. -/
theorem DivisionPair.division {n : Nat} {p0 delta : Int} {acc q : BitVec n} (h : DivisionPair p0 delta n acc q) :
    p0 = uval q * delta + bitsToDecimal acc ∧ RemainderRange delta (bitsToDecimal acc) := by
  obtain ⟨c, hc, hpair, hacc⟩ := h
  rw [bitsToDecimal_pair] at hpair
  have hpos : (0 : Int) < 2 ^ n := by positivity
  have hq : (uval q : Int) < 2 ^ n := by exact_mod_cast q.isLt
  have hc' : (c : Int) < 2 ^ n := by exact_mod_cast hc
  have hdiff : (p0 - c * delta - bitsToDecimal acc) * 2 ^ n = uval q - c := by linear_combination -hpair
  have hquotient : (uval q : Int) - c = 0 :=
    Int.eq_zero_of_abs_lt_dvd (Dvd.intro_left _ hdiff) (abs_lt.2 ⟨by omega, by omega⟩)
  rw [hquotient, mul_eq_zero, or_iff_left hpos.ne'] at hdiff
  refine ⟨?_, hacc⟩
  linear_combination hdiff - delta * hquotient

/-- The law of `DIVR` before the sign correction: the division of the pair at the start by `delta`, the divisor with the
sign of that pair. -/
theorem divr_law {s : State} {g : Bool} {n : Nat} {a b p0 delta : Int} (hc : AcceptsCleanly s (.divr g n a b))
    (hn : NoReset (n + 2) s) (hb : delta.natAbs = (held b n).natAbs)
    (hp0 : bitsToDecimal (pair (divrAccumulator s.cfg.divrAInit (decimalToBits a n)) (decimalToBits a n)) = p0)
    (hacc : RemainderRange delta (bitsToDecimal (divrAccumulator s.cfg.divrAInit (decimalToBits a n))))
    (hr : ShiftRange n p0 delta) :
    ∃ (t : State) (q : BitVec n) (r : Int), steps (n + 2) s = .next t ∧ t.phase = .done ∧
      p0 = uval q * delta + r ∧ RemainderRange delta r ∧
      dec0 t = some (bitsToDecimal (if (a < 0 ↔ b < 0) then q else negateBits q)) ∧ dec1 t = some r := by
  have hstart : DivisionPair p0 delta 0 (divrAccumulator s.cfg.divrAInit (decimalToBits a n)) (decimalToBits a n) :=
    ⟨0, by decide, by rw [hp0]; simp, hacc⟩
  obtain ⟨t, acc, q, hsteps, hdone, hpair, hdec0, hdec1⟩ := divr_run hc hn hstart (kept_divisionPair hb hr)
  obtain ⟨hdiv, hrange⟩ := hpair.division
  exact ⟨t, q, _, hsteps, hdone, hdiv, hrange, hdec0, hdec1⟩

/-! ### The start of the division (R130, R139) -/

theorem held_of_bitsToDecimal (v : Int) (n : Nat) : bitsToDecimal (decimalToBits v n) = held v n := rfl

/-- The unsigned reading of a register in terms of the signed one. -/
theorem uval_eq_ite_neg {w : Nat} (r : BitVec w) :
    (uval r : Int) = if bitsToDecimal r < 0 then bitsToDecimal r + 2 ^ w else bitsToDecimal r := by
  have hmsb := msb_iff_neg r
  have hval := bitsToDecimal_eq_ite_msb r
  rw [← BitVec.msb_eq_getLsbD_last] at hval
  split at hval
  next h => rw [if_pos (hmsb.1 h)]; omega
  next h => rw [if_neg (mt hmsb.2 h)]; omega

/-- A non-negative dividend starts with `A = 0` under both settings. -/
theorem divrAccumulator_of_nonneg {n : Nat} (init : DivrAInit) {q : BitVec n} (h : 0 ≤ bitsToDecimal q) :
    divrAccumulator init q = 0 := by
  cases init with
  | zero => rfl
  | signExtend =>
    have hmsb : ¬ q.msb = true := mt (msb_iff_neg q).1 (not_lt.2 h)
    rw [divrAccumulator, if_neg hmsb]

theorem divrAccumulator_of_neg {n : Nat} {q : BitVec n} (h : bitsToDecimal q < 0) :
    divrAccumulator .signExtend q = BitVec.allOnes n := if_pos ((msb_iff_neg q).2 h)

theorem bitsToDecimal_zero (n : Nat) : bitsToDecimal (0 : BitVec n) = 0 := by simp [bitsToDecimal]

theorem bitsToDecimal_allOnes {n : Nat} (hn : 1 ≤ n) : bitsToDecimal (BitVec.allOnes n) = -1 := by
  rw [bitsToDecimal, BitVec.toInt_allOnes, if_pos (by omega)]

theorem bitsToDecimal_of_small {n : Nat} (hn : 1 ≤ n) {q : BitVec n} (h : (uval q : Int) < 2 ^ (n - 1)) :
    bitsToDecimal q = uval q := by
  have hval := uval_eq_ite_neg q
  obtain ⟨hlow, -⟩ := bitsToDecimal_range q
  have hdouble : (2 : Int) ^ n = 2 * 2 ^ (n - 1) := by rw [← pow_succ', Nat.sub_add_cancel hn]
  split at hval <;> omega

/-- A quotient below `2^(n-1)` is corrected exactly. -/
theorem bitsToDecimal_corrected {n : Nat} (hn : 1 ≤ n) {q : BitVec n} (h : (uval q : Int) < 2 ^ (n - 1)) (c : Prop)
    [Decidable c] : bitsToDecimal (if c then q else negateBits q) = (if c then 1 else -1) * (uval q : Int) := by
  have hq := bitsToDecimal_of_small hn h
  have hpos : (0 : Int) < 2 ^ (n - 1) := by positivity
  have hmin : q ≠ BitVec.intMin n := by
    rw [Ne, ← bitsToDecimal_eq_min_iff hn, hq]
    omega
  split
  · rw [hq, one_mul]
  · rw [bitsToDecimal_negateBits hmin, hq, neg_one_mul]

/-- A quotient and a remainder in range are those of the division with a positive divisor. -/
theorem ediv_emod_of_remainderRange {p0 delta c r : Int} (hdelta : 0 < delta) (hdiv : p0 = c * delta + r)
    (hr : RemainderRange delta r) : p0 / delta = c ∧ p0 % delta = r := by
  unfold RemainderRange at hr
  exact (Int.ediv_emod_unique hdelta).2 ⟨by rw [hdiv]; ring, by omega, by omega⟩

theorem one_le_of_divr_clean {c : Config} {g : Bool} {n : Nat} {a b : Int}
    (h : entryCheck c (.divr g n a b) = .none) : 1 ≤ n :=
  (width_of_wellFormed (wellFormed_of_clean h) rfl).1

/-- A division with a remainder from 1 to the divisor: one short of the truncating one where the divisor divides. -/
theorem short_division {A B c m : Nat} (h : A = c * B + m) (hm : 1 ≤ m) (hmB : m ≤ B) :
    (¬ B ∣ A → c = A / B ∧ m = A % B) ∧ (B ∣ A → c = A / B - 1 ∧ m = B) := by
  constructor
  · intro hnot
    have hne : m ≠ B := by
      rintro rfl
      exact hnot ⟨c + 1, by rw [h]; ring⟩
    obtain ⟨hc, hr⟩ := (Nat.div_mod_unique (a := A) (d := c) (c := m) (by omega : 0 < B)).2 ⟨by rw [h]; ring, by omega⟩
    exact ⟨hc.symm, hr.symm⟩
  · intro hdvd
    have hBm : B ∣ m := (Nat.dvd_add_right (Dvd.intro_left c rfl)).1 (h ▸ hdvd)
    have hm' : m = B := Nat.le_antisymm hmB (Nat.le_of_dvd hm hBm)
    have hA : A = (c + 1) * B := by rw [h, hm']; ring
    rw [hA, Nat.mul_div_cancel _ (by omega : 0 < B)]
    exact ⟨rfl, hm'⟩

theorem divisor_ne_zero_of_divr_clean {c : Config} {g : Bool} {n : Nat} {a b : Int}
    (h : entryCheck c (.divr g n a b) = .none) : b ≠ 0 := by
  rintro rfl
  obtain ⟨-, hzero, -⟩ := (entryCheck_eq_none_iff _ _).1 h
  simp [divisorZero] at hzero

/-! ### The obligations -/

/-- Settles O44: `A` starts at 0, so the pair at the start is the dividend, which fits one half. -/
theorem divrOfANonNegativeDividend : Obligations.DivrOfANonNegativeDividend := by
  intro s g n a b hc hn ha hb
  have h1 := one_le_of_divr_clean hc.2
  have hacc := divrAccumulator_of_nonneg s.cfg.divrAInit (q := decimalToBits a n) ha
  obtain ⟨hlow, hhigh⟩ := bitsToDecimal_range (decimalToBits a n)
  rw [held_of_bitsToDecimal] at hlow hhigh
  have hdivisor : (0 : Int) < (held b n).natAbs := by omega
  have hp0 : bitsToDecimal (pair (divrAccumulator s.cfg.divrAInit (decimalToBits a n)) (decimalToBits a n)) =
      held a n := by
    rw [hacc, bitsToDecimal_pair, bitsToDecimal_zero, uval_eq_ite_neg, held_of_bitsToDecimal, if_neg (not_lt.2 ha)]
    ring
  obtain ⟨t, q, r, hsteps, hdone, hdiv, hrange, hdec0, hdec1⟩ := divr_law (delta := (held b n).natAbs) hc hn rfl hp0
    (.inl (by rw [hacc, bitsToDecimal_zero]; omega)) (.inl ⟨hlow, by omega⟩)
  obtain ⟨hquotient, hremainder⟩ := ediv_emod_of_remainderRange hdivisor hdiv hrange
  have hsmall : (uval q : Int) < 2 ^ (n - 1) := by
    rw [← hquotient]
    exact lt_of_le_of_lt (Int.ediv_le_self _ ha) (by omega)
  exact ⟨t, hsteps, hdone, by rw [hdec0, bitsToDecimal_corrected h1 hsmall, hquotient], by rw [hdec1, hremainder]⟩

/-- Settles O45: `A` starts at 0, so the pair at the start is the unsigned reading of the dividend, and the divisor is at
most a quarter of the range. -/
theorem divrOfANegativeDividendUnderZero : Obligations.DivrOfANegativeDividendUnderZero := by
  intro s g n a b hc hn hinit h2 ha hb hquarter
  have hdivisor : (0 : Int) < (held b n).natAbs := by omega
  have hp0 : bitsToDecimal (pair (divrAccumulator s.cfg.divrAInit (decimalToBits a n)) (decimalToBits a n)) =
      held a n + 2 ^ n := by
    rw [hinit, divrAccumulator_zero, bitsToDecimal_pair, bitsToDecimal_zero, uval_eq_ite_neg, held_of_bitsToDecimal,
      if_pos ha]
    ring
  obtain ⟨t, q, r, hsteps, hdone, hdiv, hrange, hdec0, hdec1⟩ := divr_law (delta := (held b n).natAbs) hc hn rfl hp0
    (.inl (by rw [hinit, divrAccumulator_zero, bitsToDecimal_zero]; omega)) (.inr ⟨h2, by exact_mod_cast hquarter⟩)
  obtain ⟨hquotient, hremainder⟩ := ediv_emod_of_remainderRange hdivisor hdiv hrange
  refine ⟨t, q, hsteps, hdone, ?_, hquotient.symm, hdec0, by rw [hdec1, hremainder]⟩
  rw [hquotient, decimalToBits, BitVec.ofInt_natCast, uval, BitVec.ofNat_toNat, BitVec.setWidth_eq]

/-- Settles O46: `A` starts at -1, so the pair at the start is the dividend itself, and the division runs with the divisor
of its sign. -/
theorem divrOfANegativeDividendUnderSignExtend : Obligations.DivrOfANegativeDividendUnderSignExtend := by
  intro s g n a b hc hn hinit hfa hfb ha
  have h1 := one_le_of_divr_clean hc.2
  have hb := divisor_ne_zero_of_divr_clean hc.2
  have hha := held_of_fits hfa
  have hhb := held_of_fits hfb
  obtain ⟨-, hlow, -⟩ := (fits_iff _ _).1 hfa
  have hneg : bitsToDecimal (decimalToBits a n) < 0 := by rwa [held_of_bitsToDecimal, hha]
  have hacc : bitsToDecimal (divrAccumulator s.cfg.divrAInit (decimalToBits a n)) = -1 := by
    rw [hinit, divrAccumulator_of_neg hneg, bitsToDecimal_allOnes h1]
  have hp0 : bitsToDecimal (pair (divrAccumulator s.cfg.divrAInit (decimalToBits a n)) (decimalToBits a n)) = a := by
    rw [bitsToDecimal_pair, hacc, uval_eq_ite_neg, if_pos hneg, held_of_bitsToDecimal, hha]
    ring
  have hpos : (0 : Int) < 2 ^ (n - 1) := by positivity
  obtain ⟨t, q, r, hsteps, hdone, hdiv, hrange, hdec0, hdec1⟩ := divr_law (delta := -(b.natAbs : Int)) hc hn
    (by rw [hhb]; omega) hp0 (.inr (by rw [hacc]; omega)) (.inl ⟨hlow, by omega⟩)
  have hr : -(b.natAbs : Int) ≤ r ∧ r < 0 := by
    unfold RemainderRange at hrange
    omega
  have hsmall : (uval q : Int) < 2 ^ (n - 1) := by
    have hle : (uval q : Int) * 1 ≤ uval q * b.natAbs := mul_le_mul_of_nonneg_left (by omega) (Int.natCast_nonneg _)
    linarith
  rw [bitsToDecimal_corrected h1 hsmall] at hdec0
  have hmag : a.natAbs = uval q * b.natAbs + r.natAbs := by
    zify
    rw [abs_of_neg ha, abs_of_neg hr.2, ← Int.natCast_natAbs]
    linear_combination -hdiv
  obtain ⟨hndvd, hdvd⟩ := short_division hmag (by omega) (by omega)
  have habs : ((if (a < 0 ↔ b < 0) then 1 else -1) * (uval q : Int)).natAbs = uval q := by split <;> simp
  rw [Int.natAbs_dvd_natAbs] at hndvd hdvd
  refine ⟨t, _, r, hsteps, hdone, hdec0, hdec1, ?identity, hr.2, ?sign, fun h => ?notDivides, fun h => ?divides⟩
  case identity =>
    rw [natAbs_eq_sign_mul b] at hdiv
    rw [quotientSign_eq, if_pos ha]
    linear_combination hdiv
  case sign =>
    rw [quotientSign_eq, if_pos ha]
    split <;> omega
  case notDivides =>
    obtain ⟨hq, hrem⟩ := hndvd h
    exact ⟨by rw [habs, hq], by omega⟩
  case divides =>
    obtain ⟨hq, hrem⟩ := hdvd h
    exact ⟨by rw [habs, hq], by omega⟩

end Sys2Proof.Machine

/-!
`DIVR` by a divisor whose register is zero (43_restoring_divider.md R138): every trial keeps its sign, so the cycles
shift the dividend up into `A` and ones into `Q`.
-/
namespace Sys2Proof.Machine

/-- The pair after `k` cycles that each shift a one in: one less than `2^k` times the successor of the start. -/
def OnesShiftedIn {n : Nat} (u0 k : Nat) (acc q : BitVec n) : Prop :=
  uval (pair acc q) + 1 ≡ 2 ^ k * (u0 + 1) [MOD 2 ^ (2 * n)]

theorem divrTrial_zero {n : Nat} (a1 : BitVec n) : divrTrial a1 0 (negateBits 0) = a1 := by
  rw [divrTrial_eq, bitsToDecimal_zero]
  simp [decimalToBits_bitsToDecimal]

theorem decimalToBits_of_held_zero {v : Int} {n : Nat} (h : held v n = 0) : decimalToBits v n = 0 := by
  rw [← decimalToBits_bitsToDecimal (decimalToBits v n), held_of_bitsToDecimal, h]
  rfl

theorem kept_onesShiftedIn {n : Nat} {b : Int} (hb : held b n = 0) (u0 : Nat) :
    KeptByDivrCycle n b (OnesShiftedIn u0) := by
  intro k acc q hk h
  rw [decimalToBits_of_held_zero hb]
  have htrial := divrTrial_zero (shlPairA acc q)
  refine ⟨_, _, divrDatapath_of_msb_eq (dp := ⟨n, acc, q, 0, negateBits 0⟩) (by rw [htrial]), ?_⟩
  have hpair : uval (pair (shlPairA acc q) (shlPairQ q ||| BitVec.ofNat n 1)) + 1 =
      2 * uval (pair acc q) % 2 ^ (2 * n) + 2 := by
    rw [← uval_pair_shlPair, uval_pair, uval_pair, uval_shlPairQ_or_one (by omega)]
    rfl
  unfold OnesShiftedIn at h ⊢
  rw [htrial]
  calc uval (pair (shlPairA acc q) (shlPairQ q ||| BitVec.ofNat n 1)) + 1
      = 2 * uval (pair acc q) % 2 ^ (2 * n) + 2 := hpair
    _ ≡ 2 * uval (pair acc q) + 2 [MOD 2 ^ (2 * n)] := (Nat.mod_modEq _ _).add_right 2
    _ = 2 * (uval (pair acc q) + 1) := by ring
    _ ≡ 2 * (2 ^ k * (u0 + 1)) [MOD 2 ^ (2 * n)] := h.mul_left 2
    _ = 2 ^ (k + 1) * (u0 + 1) := by ring

/-- After `n` cycles the start's low half is in `A`, and `Q` is all ones. -/
theorem OnesShiftedIn.final {n : Nat} {acc0 q0 acc q : BitVec n} (h : OnesShiftedIn (uval (pair acc0 q0)) n acc q) :
    acc = q0 ∧ q = BitVec.allOnes n := by
  have hpow : (2 : Nat) ^ (2 * n) = 2 ^ n * 2 ^ n := by rw [← pow_add, two_mul]
  have hpos : 0 < 2 ^ n := by positivity
  have hq0 : uval q0 < 2 ^ n := q0.isLt
  have hq : uval q < 2 ^ n := q.isLt
  have htop : (uval q0 + 1) * 2 ^ n ≤ 2 ^ n * 2 ^ n := Nat.mul_le_mul_right _ hq0
  have hones : uval q0 * 2 ^ n + (2 ^ n - 1) + 1 = (uval q0 + 1) * 2 ^ n := by rw [add_mul]; omega
  have htarget : uval (pair acc q) ≡ uval q0 * 2 ^ n + (2 ^ n - 1) [MOD 2 ^ (2 * n)] := by
    refine Nat.ModEq.add_right_cancel' 1 (h.trans ?_)
    have hstart : 2 ^ n * (uval (pair acc0 q0) + 1) = (uval q0 + 1) * 2 ^ n + 2 ^ n * 2 ^ n * uval acc0 := by
      rw [uval_pair]
      ring
    rw [hones, hstart, hpow]
    exact Nat.add_mul_mod_self_left _ _ _
  have heq : uval (pair acc q) = uval q0 * 2 ^ n + (2 ^ n - 1) :=
    htarget.eq_of_lt_of_lt (by rw [two_mul]; exact (pair acc q).isLt) (by rw [hpow]; omega)
  rw [uval_pair] at heq
  obtain ⟨hdiv, hmod⟩ := (Nat.div_mod_unique (a := uval acc * 2 ^ n + uval q) (d := uval acc) (c := uval q) hpos).2
    ⟨by ring, hq⟩
  obtain ⟨hdiv', hmod'⟩ := (Nat.div_mod_unique (a := uval acc * 2 ^ n + uval q) (d := uval q0) (c := 2 ^ n - 1) hpos).2
    ⟨by rw [heq]; ring, by omega⟩
  refine ⟨BitVec.eq_of_toNat_eq (hdiv.symm.trans hdiv'), BitVec.eq_of_toNat_eq ?_⟩
  rw [BitVec.toNat_allOnes]
  exact hmod.symm.trans hmod'

/-- The opposite of -1 is 1, but at width 1, where 1 is the sign bit. -/
theorem bitsToDecimal_negateBits_allOnes {n : Nat} (hn : 1 ≤ n) :
    bitsToDecimal (negateBits (BitVec.allOnes n)) = if n = 1 then -1 else 1 := by
  have hone : negateBits (BitVec.allOnes n) = decimalToBits 1 n := by
    rw [← decimalToBits_bitsToDecimal (BitVec.allOnes n), bitsToDecimal_allOnes hn, negateBits_decimalToBits, neg_neg]
  rw [hone]
  split
  next h => subst h; rfl
  next h =>
    have htwo : (2 : Int) ^ 1 ≤ 2 ^ (n - 1) := pow_le_pow_right₀ (by norm_num) (by omega)
    exact (held_eq_self_iff 1 hn).2 ⟨by omega, by omega⟩

/-! ### The obligation -/

/-- Settles O47: the run ends with the dividend in `A` and -1 in `Q`, whose negation is 1 at every width but 1. -/
theorem divrByAWrappedZeroDivisor : Obligations.DivrByAWrappedZeroDivisor := by
  intro s g n a b hc hn hb
  have h1 := one_le_of_divr_clean hc.2
  obtain ⟨t, acc, q, hsteps, hdone, hpair, hdec0, hdec1⟩ := divr_run hc hn
    (I := OnesShiftedIn (uval (pair (divrAccumulator s.cfg.divrAInit (decimalToBits a n)) (decimalToBits a n))))
    (by rw [OnesShiftedIn, pow_zero, one_mul]) (kept_onesShiftedIn hb _)
  obtain ⟨rfl, rfl⟩ := hpair.final
  refine ⟨t, hsteps, hdone, ?_, hdec1⟩
  rw [hdec0]
  by_cases hsign : (a < 0 ↔ b < 0)
  · rw [if_pos hsign, if_pos (.inl hsign), bitsToDecimal_allOnes h1]
  · rw [if_neg hsign, bitsToDecimal_negateBits_allOnes h1]
    simp only [hsign, false_or]

end Sys2Proof.Machine
